-- ==== Sys2Proof/Word.lean ====
section
/-! DEFINITION. The word types of BFC (20_memory.md R51, 10_state.md R21): bytes of the streams and buffers,
32-bit host registers. -/

namespace Sys2Proof

/-- The unit of every stream and buffer (R51). -/
abbrev Byte := BitVec 8

/-- A host register (R21). -/
abbrev Word := BitVec 32

end Sys2Proof
end

