-- ==== Sys2Proof/Config.lean ====
section
/-! DEFINITION. The implementation parameters of BFC (00_scope.md R7). All but `pbufBytes` are fixed by the spec. -/

namespace Sys2Proof.Config

/-- `RUN_MAX`: the largest count of a RUN record (R7). -/
abbrev runMax : Nat := 15

/-- `WINDOW_SIZE`: the largest back-reference offset searched (R7). -/
abbrev windowSize : Nat := 8192

/-- `MIN_MATCH`: the shortest match emitted as a back-reference (R7). -/
abbrev minMatch : Nat := 4

/-- `MAX_MATCH`: the cap on a match length (R7). -/
abbrev maxMatch : Nat := 255

/-- `GROUP`: tokens under one flag byte (R7). -/
abbrev group : Nat := 8

/-- `OFF1_LIMIT`: offsets below it take the one-byte form (R7). -/
abbrev off1Limit : Nat := 64

/-- `LEN1_LIMIT`: lengths below it take the one-byte form (R7). -/
abbrev len1Limit : Nat := 16

/-- `IMG_HDR_BYTES` (R7). -/
abbrev imgHdrBytes : Nat := 8

/-- `VID_HDR_BYTES` (R7). -/
abbrev vidHdrBytes : Nat := 12

/-- `LENFIELD_BYTES` (R7). -/
abbrev lenFieldBytes : Nat := 4

/-- `DHIST_BYTES`: the bytes of output history a back-reference can reach (R7); the largest offset of R90. -/
abbrev dhistBytes : Nat := 16383

/-- `HBUF_BYTES`: the bytes of input the match search can read, the window and the longest match (R7). -/
abbrev hbufBytes : Nat := 8447

/-- `GBUF_BYTES`: the payload bytes of one group, at most four for each token (R7, R108). -/
abbrev gbufBytes : Nat := 32

/-- Every position and length counter is below this (`POS_W` = 64, R7; R16, R38). -/
abbrev posLimit : Nat := 2 ^ 64

/-- Every length-prefixed block is shorter than this (R16). -/
abbrev blockLimit : Nat := 2 ^ 32

/-- The constant that register `PARAM` reads as (10_state.md R28): `MAX_MATCH`, `MIN_MATCH`, `WINDOW_SIZE`. -/
abbrev param : Word := 0xFF042000#32

/-- `PBUF_BYTES` is OPEN (R7, 92_eei_decisions.md D22): the capacity of the payload buffer as the block was built.
No body, so that nothing can rest on a value of it (log 5). -/
opaque pbufBytes : Nat

end Sys2Proof.Config
end

