-- ==== Sys2Proof/Syntax.lean ====
section
/-! DEFINITION. The instructions of BFC: the rows of spec/opcode_table.json (30_encoding.md). -/

namespace Sys2Proof

/-- The fields of a `CTRL` word beside `OP` and `START` (10_state.md R22). The reserved bits are ignored by the
machine (`x` in the table); they are kept so that an instruction says which word it was. -/
structure CmdFields where
  /-- bit 4: 0 = RAW, 1 = GRAY8 -/
  pixfmt : Bool
  /-- bit 5: 0 = strict, 1 = inclusive -/
  thrIncl : Bool
  /-- bits 15:8 -/
  thresh : BitVec 8
  /-- reserved bits 7:6, ignored -/
  rsvLow : BitVec 2
  /-- reserved bits 30:16, ignored -/
  rsvHigh : BitVec 15
  deriving DecidableEq, Repr

/-- One constructor per row of spec/opcode_table.json. -/
inductive Instr where
  /-- `RLE.ENC`, `OP` = 1 (R104, R120) -/
  | rleEnc (f : CmdFields)
  /-- `LZ.COMP`, `OP` = 2 (R104, R140) -/
  | lzComp (f : CmdFields)
  /-- `IMG.ENC`, `OP` = 3 (R104, R190) -/
  | imgEnc (f : CmdFields)
  /-- `VID.ENC`, `OP` = 4 (R104, R200) -/
  | vidEnc (f : CmdFields)
  /-- `RLE.DEC`, `OP` = 5 (R104, R127) -/
  | rleDec (f : CmdFields)
  /-- `LZ.DECOMP`, `OP` = 6 (R104, R170) -/
  | lzDecomp (f : CmdFields)
  /-- `IMG.DEC`, `OP` = 7 (R104, R192) -/
  | imgDec (f : CmdFields)
  /-- `VID.HDR`, `OP` = 8 (R104, R205) -/
  | vidHdr (f : CmdFields)
  /-- `VID.FRAME`, `OP` = 9 (R104, R206) -/
  | vidFrame (f : CmdFields)
  /-- reserved code 0 (R105) -/
  | reservedOp0 (f : CmdFields)
  /-- reserved code 10 (R105) -/
  | reservedOp10 (f : CmdFields)
  /-- reserved code 11 (R105) -/
  | reservedOp11 (f : CmdFields)
  /-- reserved code 12 (R105) -/
  | reservedOp12 (f : CmdFields)
  /-- reserved code 13 (R105) -/
  | reservedOp13 (f : CmdFields)
  /-- reserved code 14 (R105) -/
  | reservedOp14 (f : CmdFields)
  /-- reserved code 15 (R105) -/
  | reservedOp15 (f : CmdFields)
  /-- START, the first byte of a RunStream, taken whole (R81, R102, R135) -/
  | start (v : BitVec 8)
  /-- RUN, every later byte of a RunStream (R82, R102) -/
  | run (count : BitVec 4) (value : BitVec 4)
  /-- FLAG, the byte before each group of tokens (R86) -/
  | flag (f : BitVec 8)
  /-- LIT, a literal byte (R87) -/
  | lit (b : BitVec 8)
  /-- `REF.11`: one-byte offset, one-byte length, each the whole byte (R88, R101) -/
  | ref11 (off : BitVec 8) (len : BitVec 8)
  /-- `REF.12`: one-byte offset, two-byte length; `lenPad` is bits 7:5 of the first length byte, ignored (R101) -/
  | ref12 (off : BitVec 8) (lenPad : BitVec 3) (len : BitVec 12)
  /-- `REF.21`: two-byte offset, one-byte length; `offPad` is bit 7 of the first offset byte, ignored (R101) -/
  | ref21 (offPad : BitVec 1) (off : BitVec 14) (len : BitVec 8)
  /-- `REF.22`: two-byte offset, two-byte length (R88, R101) -/
  | ref22 (offPad : BitVec 1) (off : BitVec 14) (lenPad : BitVec 3) (len : BitVec 12)
  /-- IMGHDR, the single-image header (R97) -/
  | imgHeader (width : BitVec 32) (height : BitVec 32)
  /-- VIDHDR, the multi-frame header (R98) -/
  | vidHeader (width : BitVec 16) (height : BitVec 16) (rate : BitVec 32) (count : BitVec 32)
  /-- FRAMELEN, the length field of a FrameRecord (R99) -/
  | frameLen (n : BitVec 32)
  deriving DecidableEq, Repr

end Sys2Proof
end

