-- ==== Sys2Proof/Machine/State.lean ====
section
/-! DEFINITION. The state of BFC as plain data (10_state.md R20 to R41, 20_memory.md R50, R71, R72), the reasons a step
can stop, and the state after reset. Counters that no agent sees as a word are `Nat`; the rules that move them refuse
before they could pass the width the spec gives (log 4). -/

namespace Sys2Proof.Machine

/-! ### Why a step stops -/

/-- The model's faults. -/
inductive Fault where
  /-- A unit reads a buffer byte that the running operation has not written. Raised by the reads of HBUF, GBUF, PBUF and
  DHIST. 20_memory.md R62 says no operation does so; safe: the model stops where the spec's machine cannot be. -/
  | unwrittenByte
  deriving DecidableEq, Repr

/-- The model's refusals: inputs that 00_scope.md R16 does not admit ("a model should refuse it"). -/
inductive Refusal where
  /-- An instruction that has no meaning yet; raised by no arm of `exec` here. Safe. -/
  | notModelled (mnemonic : String)
  /-- A 64-bit position counter would pass 2^64 - 1 (R16, R38). Raised by LZC and LZD when they count a byte. Safe. -/
  | counterLimit
  /-- An input message has 2^64 data beats or more (R16, 93_implementation_defined.md V19). Raised by every operation when it
  takes such a beat. Safe. -/
  | messageTooLong
  /-- A CompressedBlock or payload is longer than `PBUF_BYTES` (R16, R70). Raised by VID.ENC and VID.FRAME when they put a
  byte into PBUF. Safe. -/
  | payloadBufferFull
  /-- A CompressedBlock to be length-prefixed has 2^32 bytes or more (R16, D40). Raised by VID.ENC. Safe. -/
  | blockTooLong
  deriving DecidableEq, Repr

/-! ### Streams and buffers -/

/-- One transfer on a stream port (R71): `Data(b)` or `End`. -/
inductive Beat where
  | data (b : Byte)
  | fin
  deriving DecidableEq, Repr

/-- A byte buffer at absolute positions (R50, R59 to R61): the bytes the running operation has written, by position. A
position that is not listed holds no value. -/
abbrev Memory := List Host.Cell

/-! ### Host registers -/

/-- `CTRL` (R22). Its reserved bits and `START` read as 0 and are not stored. -/
structure Ctrl where
  op : BitVec 4
  pixfmt : Bool
  thrIncl : Bool
  thresh : BitVec 8
  deriving DecidableEq, Repr

/-- `STATUS` (R23). Its reserved bits are 0 and are not stored. -/
structure Status where
  busy : Bool
  done : Bool
  err : Bool
  errcode : BitVec 4
  geom0 : Bool
  deriving DecidableEq, Repr

/-- The operation in `cfg.op` (R29, R104); `none` is the code 0 the snapshot holds after reset (R41). -/
inductive Op where
  | none | rleEnc | lzComp | imgEnc | vidEnc | rleDec | lzDecomp | imgDec | vidHdr | vidFrame
  deriving DecidableEq, Repr

/-- The configuration snapshot (R29). -/
structure Cfg where
  op : Op
  pixfmt : Bool
  thrIncl : Bool
  thresh : BitVec 8
  width : Word
  height : Word
  rate : Word
  count : Word
  total : BitVec 64
  deriving DecidableEq, Repr

/-! ### Working registers of the units -/

/-- RLU, the run-length encoder (R30). -/
structure Rlu where
  started : Bool
  cur : BitVec 1
  cnt : BitVec 4
  deriving DecidableEq, Repr

/-- LZC, the window compressor: search registers (R31) and group registers (R32). `len` is the spec's `L`. -/
structure Lzc where
  nIn : Nat
  eoi : Bool
  i : Nat
  j : Nat
  len : Nat
  bestLen : Nat
  bestOff : Nat
  t : Nat
  flag : BitVec 8
  glen : Nat
  deriving DecidableEq, Repr

/-- The phases of FRA (R33). -/
inductive FraPhase where
  | idle | hdr | body | len | payload | fin
  deriving DecidableEq, Repr

/-- FRA, the frame assembler (R33). `fidx` is a field of `State`. `pout` is the model's own: the bytes of PBUF put out so
far (log 11). -/
structure Fra where
  phase : FraPhase
  hcnt : Nat
  plen : Nat
  pout : Nat
  deriving DecidableEq, Repr

/-- The phases of FPR (R34). -/
inductive FprPhase where
  | idle | hdr | len | payload | decode | fin
  deriving DecidableEq, Repr

/-- FPR, the container parser (R34). `stage` lists the header or length bytes taken so far. -/
structure Fpr where
  phase : FprPhase
  hcnt : Nat
  stage : List Byte
  need : Word
  got : Nat
  deriving DecidableEq, Repr

/-- The phases of LZD (R35, 42_window_decompressor.md R180). -/
inductive LzdPhase where
  | flag | token | off2 | len1 | len2 | copy
  deriving DecidableEq, Repr

/-- LZD, the decompressor (R35). `tok` is the model's own: the bytes of the back-reference being parsed (log 11). -/
structure Lzd where
  p : Nat
  outLen : Nat
  flags : BitVec 8
  t : Nat
  phase : LzdPhase
  off : BitVec 14
  len : BitVec 12
  k : Nat
  start : Int
  tok : List Byte
  deriving DecidableEq, Repr

/-- RLD, the run-length decoder (R36). `ending` is the model's own: the input has ended and the pad loop of R128 is
going on (log 11). -/
structure Rld where
  first : Bool
  cur : BitVec 8
  produced : Nat
  total : BitVec 64
  cnt : BitVec 4
  val : BitVec 4
  ending : Bool
  deriving DecidableEq, Repr

/-! ### The host -/

/-- What the host may do (00_scope.md R14, 20_memory.md R71, R72, 70_reset_and_hazards.md R260). -/
inductive HostAct where
  /-- write register `n` -/
  | write (n : BitVec 4) (v : Word)
  /-- put register number `n` on `reg_addr`, to read `reg_rdata` -/
  | read (n : BitVec 4)
  /-- put a beat at the end of the input stream -/
  | offer (b : Beat)
  /-- drive `out_ready` -/
  | ready (r : Bool)
  /-- one clock edge with `rst` = 1 -/
  | reset
  deriving DecidableEq, Repr

/-- A pending act of the host, and how many moves BFC makes first while it can (log 2). -/
structure HostMove where
  wait : Nat
  act : HostAct
  deriving DecidableEq, Repr

/-! ### The state -/

structure State where
  /-- R22 -/
  ctrl : Ctrl
  /-- R23 -/
  status : Status
  /-- R24 -/
  width : Word
  /-- R24 -/
  height : Word
  /-- R25 -/
  frameRate : Word
  /-- R25 -/
  frameCount : Word
  /-- R26 -/
  totalLo : Word
  /-- R26 -/
  totalHi : Word
  /-- frames completed; `FRAME_IDX` mirrors it (R27, R33) -/
  fidx : Word
  /-- R29 -/
  cfg : Cfg
  /-- R30 -/
  rlu : Rlu
  /-- R31, R32 -/
  lzc : Lzc
  /-- R33 -/
  fra : Fra
  /-- R34 -/
  fpr : Fpr
  /-- R35 -/
  lzd : Lzd
  /-- R36 -/
  rld : Rld
  /-- HBUF (R60) -/
  hbuf : Memory
  /-- GBUF (R50) -/
  gbuf : Memory
  /-- PBUF (R70) -/
  pbuf : Memory
  /-- DHIST (R61) -/
  dhist : Memory
  /-- `PBUF_BYTES` of this block (R7; log 5) -/
  pbufBytes : Nat
  /-- OUT: produced, not yet accepted; the head is on the port (R71; log 8) -/
  outPend : List Beat
  /-- OUT: accepted by the host, in order (R50) -/
  received : List Beat
  /-- IN: the host's stream, the beats not yet taken; the head is on the port (R71) -/
  inq : List Beat
  /-- IN: how many data beats of the message that stands on IN have been taken, the model's own (R16; log 11) -/
  inTaken : Nat
  /-- `out_ready`, driven by the host (R71) -/
  outReady : Bool
  /-- `reg_addr`, driven by the host (R72) -/
  regAddr : BitVec 4
  /-- the host's pending acts (log 2) -/
  script : List HostMove
  deriving DecidableEq, Repr

/-! ### Start values (R30 to R36) and reset (R41) -/

/-- `STATUS` after reset (R23). -/
def Status.idle : Status := { busy := false, done := false, err := false, errcode := 0, geom0 := false }

/-- The start values of RLU (R30). -/
def Rlu.init : Rlu := { started := false, cur := 0, cnt := 0 }

/-- The start values of LZC (R31, R32). -/
def Lzc.init : Lzc :=
  { nIn := 0, eoi := false, i := 0, j := 0, len := 0, bestLen := 0, bestOff := 0, t := 0, flag := 0, glen := 0 }

/-- The start values of FRA (R33). -/
def Fra.init : Fra := { phase := .idle, hcnt := 0, plen := 0, pout := 0 }

/-- The start values of FPR (R34). The contents of `fpr.stage` are unspecified (R41); that no byte is listed is the model's
choice (log 6). -/
def Fpr.init : Fpr := { phase := .idle, hcnt := 0, stage := [], need := 0, got := 0 }

/-- The start values of LZD (R35). -/
def Lzd.init : Lzd :=
  { p := 0, outLen := 0, flags := 0, t := 0, phase := .flag, off := 0, len := 0, k := 0, start := 0, tok := [] }

/-- The start values of RLD (R36). -/
def Rld.init : Rld := { first := true, cur := 0, produced := 0, total := 0, cnt := 0, val := 0, ending := false }

/-- The machine right after reset (R41, R261): every host register 0, the snapshot 0, every working register at its start
value, no beat in flight; no buffer byte written by an operation (R62, log 6). The host's side (streams, `out_ready`,
`reg_addr`, script) is no state of BFC; its values here are log 2. -/
def State.reset : State where
  ctrl := { op := 0, pixfmt := false, thrIncl := false, thresh := 0 }
  status := .idle
  width := 0
  height := 0
  frameRate := 0
  frameCount := 0
  totalLo := 0
  totalHi := 0
  fidx := 0
  cfg := { op := .none, pixfmt := false, thrIncl := false, thresh := 0, width := 0, height := 0, rate := 0, count := 0, total := 0 }
  rlu := .init
  lzc := .init
  fra := .init
  fpr := .init
  lzd := .init
  rld := .init
  hbuf := []
  gbuf := []
  pbuf := []
  dhist := []
  pbufBytes := Config.pbufBytes
  outPend := []
  received := []
  inq := []
  inTaken := 0
  outReady := true
  regAddr := 0
  script := []

end Sys2Proof.Machine
end

