-- ==== Sys2Proof/Machine/Flags.lean ====
section
/-! DEFINITION. The only flags of BFC: the bits of `STATUS` (10_state.md R23, R39). -/

namespace Sys2Proof.Machine

/-- What register `STATUS` reads as (R23). -/
def statusWord (t : Status) : Word :=
  0#23 ++ BitVec.ofBool t.geom0 ++ t.errcode ++ 0#1 ++ BitVec.ofBool t.err ++ BitVec.ofBool t.done ++ BitVec.ofBool t.busy

/-- What an accepted START leaves (R23, R224): `BUSY` set, all else cleared. -/
def statusStarted : Status := { busy := true, done := false, err := false, errcode := 0, geom0 := false }

/-- Normal end (R23, R225): `BUSY` cleared, `DONE` set. -/
def statusDone (t : Status) : Status := { t with busy := false, done := true }

/-- End by exception with code `c` (R23, R236): `BUSY` cleared, `ERR` and `ERRCODE` set, `DONE` and `GEOM0` stay. -/
def statusErr (c : BitVec 4) (t : Status) : Status := { t with busy := false, err := true, errcode := c }

/-- `GEOM0` is set when the width or the height in use is zero (R233), at the end of the operation (R39). -/
def statusGeom (zero : Bool) (t : Status) : Status := { t with geom0 := t.geom0 || zero }

end Sys2Proof.Machine
end

