-- ==== Sys2Proof/WellFormed.lean ====
section
/-! DEFINITION. Which terms of `Instr` are instructions: the two key bits of 30_encoding.md R101 decide the shape of a
back-reference, so a one-byte offset has bit 6 clear and a one-byte length has bit 4 clear. -/

namespace Sys2Proof

/-- A byte that ParseOFF reads as a one-byte offset (R101). -/
def offByteOk (b : BitVec 8) : Bool := !b.getLsbD 6

/-- A byte that ParseLEN reads as a one-byte length (R101). -/
def lenByteOk (b : BitVec 8) : Bool := !b.getLsbD 4

/-- Well-formedness. Every other operand may hold any value of its width. -/
def Instr.wf : Instr → Bool
  | .rleEnc _ | .lzComp _ | .imgEnc _ | .vidEnc _ | .rleDec _ | .lzDecomp _ | .imgDec _ | .vidHdr _ | .vidFrame _ => true
  | .reservedOp0 _ | .reservedOp10 _ | .reservedOp11 _ | .reservedOp12 _ | .reservedOp13 _ | .reservedOp14 _
  | .reservedOp15 _ => true
  | .start _ | .run _ _ | .flag _ | .lit _ => true
  | .ref11 off len => offByteOk off && lenByteOk len
  | .ref12 off _ _ => offByteOk off
  | .ref21 _ _ len => lenByteOk len
  | .ref22 _ _ _ _ => true
  | .imgHeader _ _ | .vidHeader _ _ _ _ | .frameLen _ => true

end Sys2Proof
end

