-- ==== Sys2Proof/Decode.lean ====
section
/-! DEFINITION. Byte order (20_memory.md R52 to R56), the decoder of every format of 30_encoding.md, and the encoder
written from the same tables. What a byte means depends on where it stands (R103), so the decoder takes the place
(`Ctx`) beside the bytes. -/

namespace Sys2Proof

/-! ### Byte order -/

/-- `be16` (R53). -/
def be16 (v : BitVec 16) : List Byte := [v.extractLsb' 8 8, v.extractLsb' 0 8]

/-- `be32` (R53). -/
def be32 (v : BitVec 32) : List Byte :=
  [v.extractLsb' 24 8, v.extractLsb' 16 8, v.extractLsb' 8 8, v.extractLsb' 0 8]

/-- `unbe16` (R53). -/
def unbe16 (a b : Byte) : BitVec 16 := a ++ b

/-- `unbe32` (R53). -/
def unbe32 (a b c d : Byte) : BitVec 32 := a ++ b ++ c ++ d

/-! ### Where an instruction can stand -/

/-- The places of R103: a `CTRL` write, a RunStream byte (first or later), a CompressedBlock item by position and flag
bit, a container field by operation and phase. -/
inductive Ctx where
  | command | runStart | runRecord | flag | literal | reference | imgHeader | vidHeader | frameLen
  deriving DecidableEq, Repr

/-- Why bytes are no instruction. -/
inductive DecodeError where
  /-- the bytes end inside the instruction -/
  | endOfBytes
  /-- a `CTRL` word with bit 31 = 0 starts nothing (R22): it is a plain register write -/
  | noStart
  deriving DecidableEq, Repr

/-- The place at which an instruction stands. -/
def Instr.ctx : Instr → Ctx
  | .rleEnc _ | .lzComp _ | .imgEnc _ | .vidEnc _ | .rleDec _ | .lzDecomp _ | .imgDec _ | .vidHdr _ | .vidFrame _ => .command
  | .reservedOp0 _ | .reservedOp10 _ | .reservedOp11 _ | .reservedOp12 _ | .reservedOp13 _ | .reservedOp14 _
  | .reservedOp15 _ => .command
  | .start _ => .runStart
  | .run _ _ => .runRecord
  | .flag _ => .flag
  | .lit _ => .literal
  | .ref11 _ _ | .ref12 _ _ _ | .ref21 _ _ _ | .ref22 _ _ _ _ => .reference
  | .imgHeader _ _ => .imgHeader
  | .vidHeader _ _ _ _ => .vidHeader
  | .frameLen _ => .frameLen

/-! ### Decoding -/

/-- The fields of a `CTRL` word (R22). -/
def cmdFieldsOf (v : BitVec 32) : CmdFields where
  pixfmt := v.getLsbD 4
  thrIncl := v.getLsbD 5
  thresh := v.extractLsb' 8 8
  rsvLow := v.extractLsb' 6 2
  rsvHigh := v.extractLsb' 16 15

/-- The command a code of `CTRL.OP` selects (R104, R105). -/
def commandOf (op : BitVec 4) (f : CmdFields) : Instr :=
  match op.toNat with
  | 0 => .reservedOp0 f
  | 1 => .rleEnc f
  | 2 => .lzComp f
  | 3 => .imgEnc f
  | 4 => .vidEnc f
  | 5 => .rleDec f
  | 6 => .lzDecomp f
  | 7 => .imgDec f
  | 8 => .vidHdr f
  | 9 => .vidFrame f
  | 10 => .reservedOp10 f
  | 11 => .reservedOp11 f
  | 12 => .reservedOp12 f
  | 13 => .reservedOp13 f
  | 14 => .reservedOp14 f
  | _ => .reservedOp15 f

/-- A write of `CTRL` as a command: bit 31 is `START`, bits 3:0 are `OP` (R22, R104, R105). -/
def decodeCommand (v : BitVec 32) : Except DecodeError Instr :=
  if v.getLsbD 31 then .ok (commandOf (v.extractLsb' 0 4) (cmdFieldsOf v)) else .error .noStart

/-- ParseLEN after a one-byte OFF (R101). -/
def decodeLenAfter1 (off : Byte) : List Byte → Except DecodeError (Instr × List Byte)
  | [] => .error .endOfBytes
  | c0 :: rest =>
    if c0.getLsbD 4 then
      match rest with
      | [] => .error .endOfBytes
      | c1 :: rest => .ok (.ref12 off (c0.extractLsb' 5 3) (c0.extractLsb' 0 4 ++ c1), rest)
    else .ok (.ref11 off c0, rest)

/-- ParseLEN after a two-byte OFF (R101). -/
def decodeLenAfter2 (pad : BitVec 1) (off : BitVec 14) : List Byte → Except DecodeError (Instr × List Byte)
  | [] => .error .endOfBytes
  | c0 :: rest =>
    if c0.getLsbD 4 then
      match rest with
      | [] => .error .endOfBytes
      | c1 :: rest => .ok (.ref22 pad off (c0.extractLsb' 5 3) (c0.extractLsb' 0 4 ++ c1), rest)
    else .ok (.ref21 pad off c0, rest)

/-- A back-reference: ParseOFF, then ParseLEN (R101). -/
def decodeReference : List Byte → Except DecodeError (Instr × List Byte)
  | [] => .error .endOfBytes
  | b0 :: rest =>
    if b0.getLsbD 6 then
      match rest with
      | [] => .error .endOfBytes
      | b1 :: rest => decodeLenAfter2 (b0.extractLsb' 7 1) (b0.extractLsb' 0 6 ++ b1) rest
    else decodeLenAfter1 b0 rest

/-- The instruction that stands at the front of the bytes, and the bytes after it. Total; a refusal has a name. A command
word is listed most significant byte first, as the table writes it (log 16). -/
def decode : Ctx → List Byte → Except DecodeError (Instr × List Byte)
  | .command, a :: b :: c :: d :: rest => (decodeCommand (unbe32 a b c d)).map (·, rest)
  | .runStart, b :: rest => .ok (.start b, rest)
  | .runRecord, b :: rest => .ok (.run (b.extractLsb' 4 4) (b.extractLsb' 0 4), rest)
  | .flag, b :: rest => .ok (.flag b, rest)
  | .literal, b :: rest => .ok (.lit b, rest)
  | .reference, bs => decodeReference bs
  | .imgHeader, a :: b :: c :: d :: e :: f :: g :: h :: rest =>
    .ok (.imgHeader (unbe32 a b c d) (unbe32 e f g h), rest)
  | .vidHeader, a :: b :: c :: d :: e :: f :: g :: h :: i :: j :: k :: l :: rest =>
    .ok (.vidHeader (unbe16 a b) (unbe16 c d) (unbe32 e f g h) (unbe32 i j k l), rest)
  | .frameLen, a :: b :: c :: d :: rest => .ok (.frameLen (unbe32 a b c d), rest)
  | _, _ => .error .endOfBytes

/-! ### Encoding -/

/-- The `CTRL` word of a command (R22): `START` = 1, reserved bits as the term holds them. -/
def commandWord (op : BitVec 4) (f : CmdFields) : BitVec 32 :=
  1#1 ++ f.rsvHigh ++ f.thresh ++ f.rsvLow ++ BitVec.ofBool f.thrIncl ++ BitVec.ofBool f.pixfmt ++ op

/-- The byte of a RUN record, `(count << 4) | value` (R82, R55). -/
def runByte (count value : BitVec 4) : Byte := count ++ value

/-- A two-byte OFF field (R90): key bit 6 set, high six bits, then the low eight. -/
def offBytes2 (pad : BitVec 1) (off : BitVec 14) : List Byte :=
  [pad ++ 1#1 ++ off.extractLsb' 8 6, off.extractLsb' 0 8]

/-- A two-byte LEN field (R92): key bit 4 set, high four bits, then the low eight. -/
def lenBytes2 (pad : BitVec 3) (len : BitVec 12) : List Byte :=
  [pad ++ 1#1 ++ len.extractLsb' 8 4, len.extractLsb' 0 8]

/-- The bytes of an instruction in stream order (R80 to R100; a command's word as in `decode`). -/
def encode : Instr → List Byte
  | .rleEnc f => be32 (commandWord 1#4 f)
  | .lzComp f => be32 (commandWord 2#4 f)
  | .imgEnc f => be32 (commandWord 3#4 f)
  | .vidEnc f => be32 (commandWord 4#4 f)
  | .rleDec f => be32 (commandWord 5#4 f)
  | .lzDecomp f => be32 (commandWord 6#4 f)
  | .imgDec f => be32 (commandWord 7#4 f)
  | .vidHdr f => be32 (commandWord 8#4 f)
  | .vidFrame f => be32 (commandWord 9#4 f)
  | .reservedOp0 f => be32 (commandWord 0#4 f)
  | .reservedOp10 f => be32 (commandWord 10#4 f)
  | .reservedOp11 f => be32 (commandWord 11#4 f)
  | .reservedOp12 f => be32 (commandWord 12#4 f)
  | .reservedOp13 f => be32 (commandWord 13#4 f)
  | .reservedOp14 f => be32 (commandWord 14#4 f)
  | .reservedOp15 f => be32 (commandWord 15#4 f)
  | .start v => [v]
  | .run count value => [runByte count value]
  | .flag f => [f]
  | .lit b => [b]
  | .ref11 off len => [off, len]
  | .ref12 off lenPad len => off :: lenBytes2 lenPad len
  | .ref21 offPad off len => offBytes2 offPad off ++ [len]
  | .ref22 offPad off lenPad len => offBytes2 offPad off ++ lenBytes2 lenPad len
  | .imgHeader w h => be32 w ++ be32 h
  | .vidHeader w h r c => be16 w ++ be16 h ++ be32 r ++ be32 c
  | .frameLen n => be32 n

/-- How many bytes an instruction has (R103, R108; the table's `width_bits`). -/
def Instr.size : Instr → Nat
  | .rleEnc _ | .lzComp _ | .imgEnc _ | .vidEnc _ | .rleDec _ | .lzDecomp _ | .imgDec _ | .vidHdr _ | .vidFrame _ => 4
  | .reservedOp0 _ | .reservedOp10 _ | .reservedOp11 _ | .reservedOp12 _ | .reservedOp13 _ | .reservedOp14 _
  | .reservedOp15 _ => 4
  | .start _ | .run _ _ | .flag _ | .lit _ => 1
  | .ref11 _ _ => 2
  | .ref12 _ _ _ | .ref21 _ _ _ => 3
  | .ref22 _ _ _ _ => 4
  | .imgHeader _ _ => 8
  | .vidHeader _ _ _ _ => 12
  | .frameLen _ => 4

/-! ### The words of spec/opcode_table.json -/

/-- The low `n` bytes of a number, the most significant first: the table writes a row's first byte as the highest
(`REF.11`: "byte0 then byte1, most significant bit first"; log 14). -/
def tableBytes : Nat → Nat → List Byte
  | 0, _ => []
  | n + 1, w => BitVec.ofNat 8 (w / 256 ^ n) :: tableBytes n w

/-- The place a table word is read at. Width and bits tell the rows apart but for the four one-byte rows START, RUN, FLAG
and LIT, whose words are the same bytes at different places (R103): a byte with the shape the encoder gives START (R81) is
read as START, then one with the shape of RUN (R82) as RUN, and of the others those with a high nibble of 15 as FLAG and
the rest as LIT (log 13). -/
def tableCtx (nbits w : Nat) : Option Ctx :=
  match nbits with
  | 8 =>
    if w < 2 then some .runStart
    else if w % 16 < 2 then some .runRecord
    else if 240 ≤ w then some .flag
    else some .literal
  | 16 => some .reference
  | 24 => some .reference
  | 32 =>
    if 2 ^ 31 ≤ w then some .command
    else if w / 2 ^ 30 = 1 ∧ w / 2 ^ 12 % 16 = 1 then some .reference
    else some .frameLen
  | 64 => some .imgHeader
  | 96 => some .vidHeader
  | _ => none

/-- The instruction the decoder reads from a word of the opcode table: all its bytes, none left over. -/
def decodeTableWord (nbits w : Nat) : Option Instr :=
  match tableCtx nbits w with
  | none => none
  | some ctx =>
    match decode ctx (tableBytes (nbits / 8) w) with
    | .ok (i, []) => some i
    | _ => none

end Sys2Proof
end

