-- ==== Sys2Proof/Machine/Operands.lean ====
section
/-! DEFINITION. Operand forms: the offset and length of a back-reference (30_encoding.md R89 to R92, R101; 41 R146, R147),
the input pixel BIN (45 R220), the geometry (10_state.md R24, 43 R195) and the snapshot's operands (R29). -/

namespace Sys2Proof.Machine

/-! ### Offset and length -/

/-- A one-byte OFF is the byte, all 8 bits (R101). -/
def offOfByte (b : Byte) : BitVec 14 := b.setWidth 14

/-- A one-byte LEN is the byte, all 8 bits (R101). -/
def lenOfByte (b : Byte) : BitVec 12 := b.setWidth 12

/-- The high part of a two-byte OFF as its first byte gives it (R101, R180). -/
def offHigh (b : Byte) : BitVec 14 := b.extractLsb' 0 6 ++ 0#8

/-- The high part of a two-byte LEN as its first byte gives it (R101, R180). -/
def lenHigh (b : Byte) : BitVec 12 := b.extractLsb' 0 4 ++ 0#8

/-- `PACKOFF` (R146). -/
def packOff (off : Nat) : List Byte :=
  if off < Config.off1Limit then [BitVec.ofNat 8 off]
  else [0x40#8 ||| (BitVec.ofNat 8 (off / 256) &&& 0x3F#8), BitVec.ofNat 8 (off % 256)]

/-- `PACKLEN` (R147). -/
def packLen (len : Nat) : List Byte :=
  if len < Config.len1Limit then [BitVec.ofNat 8 len]
  else [0x10#8 ||| (BitVec.ofNat 8 (len / 256) &&& 0x0F#8), BitVec.ofNat 8 (len % 256)]

/-- The offset of a back-reference (R101); 0 for any other instruction. -/
def refOffset : Instr → BitVec 14
  | .ref11 off _ | .ref12 off _ _ => offOfByte off
  | .ref21 _ off _ | .ref22 _ off _ _ => off
  | _ => 0

/-- The length of a back-reference (R101); 0 for any other instruction. -/
def refLength : Instr → BitVec 12
  | .ref11 _ len | .ref21 _ _ len => lenOfByte len
  | .ref12 _ _ len | .ref22 _ _ _ len => len
  | _ => 0

/-! ### BIN -/

/-- One input beat to one pixel (R220 to R222): bit 0 in RAW format; in GRAY8 the comparison with the threshold, strict or
inclusive. -/
def binPixel (c : Cfg) (b : Byte) : BitVec 1 :=
  if c.pixfmt then
    if c.thrIncl then BitVec.ofBool (decide (c.thresh.toNat ≤ b.toNat))
    else BitVec.ofBool (decide (c.thresh.toNat < b.toNat))
  else b.extractLsb' 0 1

/-! ### Geometry and totals -/

/-- `width x height`, the exact product in 64 bits (R195). -/
def totalBits (w h : Word) : BitVec 64 := w.setWidth 64 * h.setWidth 64

/-- Bits 15:0 of a geometry register, as VID.ENC and VID.FRAME use it (R24). -/
def low16 (w : Word) : BitVec 16 := w.extractLsb' 0 16

/-- `TOTAL_HI:TOTAL_LO` (R26, R29). -/
def totalOf (hi lo : Word) : BitVec 64 := hi ++ lo

/-- The eight header bytes of IMG.ENC (R97, R190). -/
def imgHdrBytes (c : Cfg) : List Byte := encode (.imgHeader c.width c.height)

/-- The twelve header bytes of VID.ENC (R98, R200). -/
def vidHdrBytes (c : Cfg) : List Byte := encode (.vidHeader (low16 c.width) (low16 c.height) c.rate c.count)

/-! ### Operation codes -/

/-- The code of an operation in `CTRL.OP` (R104). -/
def Op.code : Op → BitVec 4
  | .none => 0
  | .rleEnc => 1
  | .lzComp => 2
  | .imgEnc => 3
  | .vidEnc => 4
  | .rleDec => 5
  | .lzDecomp => 6
  | .imgDec => 7
  | .vidHdr => 8
  | .vidFrame => 9

/-- Does RLD stand behind LZD in this operation (R107, R192, R206)? -/
def Op.lzdFeedsRld : Op → Bool
  | .imgDec | .vidFrame => true
  | .none | .rleEnc | .lzComp | .imgEnc | .vidEnc | .rleDec | .lzDecomp | .vidHdr => false

end Sys2Proof.Machine
end

