-- ==== Sys2Proof/Machine/Ops.lean ====
section
/-! DEFINITION. The shared operations: buffers (20_memory.md R59 to R62), the output stream (R65, R71), the register port
(10_state.md R21 to R28, R72), taking an exception and ending an operation (60_exceptions.md R236, 45 R225). -/

namespace Sys2Proof.Machine

/-- The outcome of a step of this machine. -/
abbrev Result := Host.Outcome State Fault Refusal

/-- Go on from a next state; a stop stays a stop. -/
def andThen (r : Result) (f : State → Result) : Result :=
  match r with
  | .next s => f s
  | .fault e => .fault e
  | .refused e => .refused e

/-! ### Buffers -/

/-- The canonical form of a buffer: positions strictly rising. An unlisted position holds no value, so no entry can equal
it. -/
abbrev Memory.wf (m : Memory) : Prop := m.Pairwise (fun c d => c.1 < d.1)

/-- `MemRead(a, 1)` (R10): the byte at position `a`, none where this operation has written nothing (log 6). -/
def Memory.read : Memory → Nat → Option Byte
  | [], _ => none
  | (x, b) :: m, a => if x = a then some b else Memory.read m a

/-- `MemWrite(a, 1, v)` (R10). -/
def Memory.write : Memory → Nat → Byte → Memory
  | [], a, v => [(a, v)]
  | (x, b) :: m, a, v =>
    if a < x then (a, v) :: (x, b) :: m
    else if a = x then (a, v) :: m
    else (x, b) :: Memory.write m a v

/-- Write bytes at consecutive positions. -/
def Memory.writeAll : Memory → Nat → List Byte → Memory
  | m, _, [] => m
  | m, a, b :: bs => Memory.writeAll (Memory.write m a b) (a + 1) bs

/-- The `n` bytes from position `a` on, none if one of them is not written. -/
def Memory.bytesFrom : Nat → Nat → Memory → Option (List Byte)
  | _, 0, _ => some []
  | _, _ + 1, [] => none
  | a, n + 1, (x, b) :: m => if x = a then (Memory.bytesFrom (a + 1) n m).map (b :: ·) else none

/-- The bytes at positions 0 to `n - 1`: the sequence a buffer holds (R60, R61). -/
def Memory.bytes (m : Memory) (n : Nat) : Option (List Byte) := Memory.bytesFrom 0 n m

/-- A sequence as a buffer, element `k` at position `a + k`. -/
def Memory.ofBytesFrom : Nat → List Byte → Memory
  | _, [] => []
  | a, b :: bs => (a, b) :: Memory.ofBytesFrom (a + 1) bs

/-- A sequence as a buffer from position 0 on. -/
def Memory.ofBytes (bs : List Byte) : Memory := Memory.ofBytesFrom 0 bs

/-! ### The output stream -/

/-- `Out(b)` for each byte in order (R10, R65). -/
def outBytes (bs : List Byte) (s : State) : State := { s with outPend := s.outPend ++ bs.map Beat.data }

/-- `OutEnd()` (R10, R71). -/
def outEnd (s : State) : State := { s with outPend := s.outPend ++ [.fin] }

/-! ### The end of an operation -/

/-- Was the geometry of this decode zero (R233)? The total of IMG.DEC and VID.FRAME is the exact product (R195), so it is 0
just when the width or the height is. -/
def zeroGeometry (s : State) : Bool := s.cfg.op.lzdFeedsRld && s.rld.total == 0

/-- Normal end (R225): `BUSY` cleared and `DONE` set at one edge, and with them `GEOM0` where the geometry was zero (R39,
R233; log 21); a `VID.FRAME` that ends so counts in `FRAME_IDX` (R27). -/
def finishOp (s : State) : State :=
  { s with
    status := statusDone (statusGeom (zeroGeometry s) s.status)
    fidx := if s.cfg.op = .vidFrame then s.fidx + 1 else s.fidx }

/-- The host accepts the beat on OUT (R71). The end marker is the last beat of an operation that has output, so its
acceptance ends the operation (R13, R225). -/
def acceptBeat (b : Beat) (rest : List Beat) (s : State) : State :=
  let s := { s with outPend := rest, received := s.received ++ [b] }
  match b with
  | .data _ => s
  | .fin => finishOp s

/-- The exceptions (R230). The third kind of the document is the flag `GEOM0`, no exception (R233). -/
inductive Exc where
  | malformedHeader
  | truncatedPayload
  deriving DecidableEq, Repr

/-- `ERRCODE` of an exception (R230). -/
def Exc.code : Exc → BitVec 4
  | .malformedHeader => 1
  | .truncatedPayload => 2

/-- Taking an exception (R236): only `STATUS` changes. Nothing is saved, control goes nowhere, the working registers stay
as they are. There is no return from it (R240): the next accepted START clears `ERR` (`acceptStart`). -/
def raiseExc (e : Exc) (s : State) : State := { s with status := statusErr e.code s.status }

/-! ### PBUF -/

/-- Put bytes of a CompressedBlock into PBUF and count them in `fra.plen` (R201). R16 admits no block of 2^32 bytes or
more and none longer than `PBUF_BYTES`. -/
def pbufAppend : List Byte → State → Result
  | [], s => .next s
  | b :: bs, s =>
    if s.pbufBytes ≤ s.fra.plen then .refused .payloadBufferFull
    else if Config.blockLimit ≤ s.fra.plen + 1 then .refused .blockTooLong
    else pbufAppend bs
      { s with pbuf := Memory.write s.pbuf s.fra.plen b, fra := { s.fra with plen := s.fra.plen + 1 } }

/-! ### The register port -/

/-- What register `CTRL` reads as (R22). -/
def ctrlWord (c : Ctrl) : Word :=
  0#16 ++ c.thresh ++ 0#2 ++ BitVec.ofBool c.thrIncl ++ BitVec.ofBool c.pixfmt ++ c.op

/-- What a register reads as (R21 to R28); numbers 10 to 15 read as 0. -/
def readReg (s : State) (n : BitVec 4) : Word :=
  match n.toNat with
  | 0 => ctrlWord s.ctrl
  | 1 => statusWord s.status
  | 2 => s.width
  | 3 => s.height
  | 4 => s.frameRate
  | 5 => s.frameCount
  | 6 => s.totalLo
  | 7 => s.totalHi
  | 8 => s.fidx
  | 9 => Config.param
  | _ => 0

/-- `reg_rdata`: the register that `reg_addr` names, combinationally (R72). -/
def regRdata (s : State) : Word := readReg s s.regAddr

/-- The fields of a `CTRL` write (R22). -/
def ctrlOf (v : Word) : Ctrl :=
  { op := v.extractLsb' 0 4, pixfmt := v.getLsbD 4, thrIncl := v.getLsbD 5, thresh := v.extractLsb' 8 8 }

/-- A register write that starts nothing (R21, R68, R72): `CTRL` is ignored in full while `BUSY` = 1; read-only and
reserved numbers ignore writes. -/
def writeReg (n : BitVec 4) (v : Word) (s : State) : State :=
  match n.toNat with
  | 0 => if s.status.busy then s else { s with ctrl := ctrlOf v }
  | 2 => { s with width := v }
  | 3 => { s with height := v }
  | 4 => { s with frameRate := v }
  | 5 => { s with frameCount := v }
  | 6 => { s with totalLo := v }
  | 7 => { s with totalHi := v }
  | _ => s

/-- The pin `done` (R23). -/
def pinDone (s : State) : Bool := s.status.done

/-- The pin `err` (R23). -/
def pinErr (s : State) : Bool := s.status.err

/-- `out_valid` (R71). -/
def outValid (s : State) : Bool := !s.outPend.isEmpty

/-- `out_data`: 0 with an end marker (R71), and 0 where no beat is offered (log 27). -/
def outData (s : State) : Byte :=
  match s.outPend with
  | .data b :: _ => b
  | _ => 0

/-- `out_end`: 1 with an end marker and 0 with a byte (R71), and 0 where no beat is offered (log 27). -/
def outEndPin (s : State) : Bool :=
  match s.outPend with
  | .fin :: _ => true
  | _ => false

/-- Reset (R260, R262): BFC goes to the reset state; what the host has, offers and plans is the host's
(log 10). -/
def resetBfc (s : State) : State :=
  { State.reset with
    pbufBytes := s.pbufBytes, received := s.received, inq := s.inq, inTaken := s.inTaken, outReady := s.outReady, regAddr := s.regAddr,
    script := s.script }

/-! ### Moves of BFC -/

/-- What BFC does next when no output beat waits: nothing (it waits for the host), a move of its units, or an instruction
that stands whole before it. -/
inductive Move where
  | wait
  | unit (r : Result)
  | instr (i : Instr) (s : State)

/-- Does the machine wait? -/
def Move.waits : Move → Bool
  | .wait => true
  | .unit _ => false
  | .instr _ _ => false

/-- `In()` (R10, R71): take the beat on IN; without one, wait. A message of 2^64 data beats or more is not admitted (R16). -/
def takeIn (s : State) (onData : Byte → State → Move) (onEnd : State → Move) : Move :=
  match s.inq with
  | [] => .wait
  | .data b :: rest =>
    if s.inTaken + 1 < Config.posLimit then onData b { s with inq := rest, inTaken := s.inTaken + 1 }
    else .unit (.refused .messageTooLong)
  | .fin :: rest => onEnd { s with inq := rest, inTaken := 0 }

/-- The instruction that the fetched bytes are. -/
def decodeMove (ctx : Ctx) (bs : List Byte) (cut : Result) (s : State) : Move :=
  match decode ctx bs with
  | .ok (i, _) => .instr i s
  | .error _ => .unit cut

end Sys2Proof.Machine
end

