-- ==== Sys2Proof/Machine/Control.lean ====
section
/-! DEFINITION. Control (45_binarize_and_control.md R224, 10_state.md R29, R42): what an accepted START does, and the
meanings of the seven reserved codes (30_encoding.md R105). -/

namespace Sys2Proof.Machine

/-- `CTRL` as a command word with code `op` leaves it (R22, R224). -/
def ctrlFields (op : BitVec 4) (f : CmdFields) : Ctrl :=
  { op := op, pixfmt := f.pixfmt, thrIncl := f.thrIncl, thresh := f.thresh }

/-- The snapshot of R29, from the fields just stored and the registers as they stand. -/
def snapshot (op : Op) (s : State) : Cfg where
  op := op
  pixfmt := s.ctrl.pixfmt
  thrIncl := s.ctrl.thrIncl
  thresh := s.ctrl.thresh
  width := s.width
  height := s.height
  rate := s.frameRate
  count := s.frameCount
  total := totalOf s.totalHi s.totalLo

/-- RLU, LZC and their buffers at their start values (R30 to R32). -/
def initEncoders (s : State) : State :=
  { s with rlu := .init, lzc := .init, hbuf := [], gbuf := [] }

/-- The units an operation uses, at their start values (R42, R224), with what its rule sets at START: the phases of FRA
(R190, R201) and FPR (R192; HDR of VID.HDR and LEN of VID.FRAME are the model's, log 23), `rld.total` (R128), `fidx` of VID.ENC (R27, R201). Buffers hold nothing that the
new operation has written (R62, log 6). -/
def initUnits (op : Op) (s : State) : State :=
  match op with
  | .none => s
  | .rleEnc => { s with rlu := .init }
  | .lzComp => { s with lzc := .init, hbuf := [], gbuf := [] }
  | .imgEnc => { initEncoders s with fra := { Fra.init with phase := .hdr } }
  | .vidEnc => { initEncoders s with fra := { Fra.init with phase := .hdr }, pbuf := [], fidx := 0 }
  | .rleDec => { s with rld := { Rld.init with total := s.cfg.total } }
  | .lzDecomp => { s with lzd := .init, dhist := [] }
  | .imgDec => { s with fpr := { Fpr.init with phase := .hdr }, lzd := .init, dhist := [], rld := .init }
  | .vidHdr => { s with fpr := { Fpr.init with phase := .hdr } }
  | .vidFrame =>
    { s with fpr := { Fpr.init with phase := .len }, pbuf := [], lzd := .init, dhist := [], rld := .init }

/-- An accepted START (R224): fields stored, snapshot taken, `STATUS` cleared but for `BUSY`, units at start values. -/
def acceptStart (op : Op) (f : CmdFields) (s : State) : State :=
  let s := { s with ctrl := ctrlFields op.code f }
  initUnits op { s with cfg := snapshot op s, status := statusStarted }

/-- The step of a command word: ignored in full while `BUSY` = 1 (R68, R224), else an accepted START. -/
def startOp (op : Op) (f : CmdFields) (s : State) : Result :=
  if s.status.busy then .next s else .next (acceptStart op f s)

/-- A reserved code (R105): fields stored, nothing starts, `STATUS` as it was; ignored in full while `BUSY` = 1 (R68). -/
def storeReserved (op : BitVec 4) (f : CmdFields) (s : State) : Result :=
  if s.status.busy then .next s else .next { s with ctrl := ctrlFields op f }

/-- Reserved code 0 (R105). -/
def execReservedOp0 (f : CmdFields) (s : State) : Result := storeReserved 0 f s

/-- Reserved code 10 (R105). -/
def execReservedOp10 (f : CmdFields) (s : State) : Result := storeReserved 10 f s

/-- Reserved code 11 (R105). -/
def execReservedOp11 (f : CmdFields) (s : State) : Result := storeReserved 11 f s

/-- Reserved code 12 (R105). -/
def execReservedOp12 (f : CmdFields) (s : State) : Result := storeReserved 12 f s

/-- Reserved code 13 (R105). -/
def execReservedOp13 (f : CmdFields) (s : State) : Result := storeReserved 13 f s

/-- Reserved code 14 (R105). -/
def execReservedOp14 (f : CmdFields) (s : State) : Result := storeReserved 14 f s

/-- Reserved code 15 (R105). -/
def execReservedOp15 (f : CmdFields) (s : State) : Result := storeReserved 15 f s

end Sys2Proof.Machine
end

