-- ==== Sys2Proof/Machine/RunLength.lean ====
section
/-! DEFINITION. Run-length encode and decode (40_run_length.md): the units RLU and RLD, the moves of `RLE.ENC` and
`RLE.DEC`, and the meanings of `RLE.ENC`, `RLE.DEC`, START and RUN. -/

namespace Sys2Proof.Machine

/-! ### RLU -/

/-- RLU takes a pixel (R121, R122): its registers after, and the bytes it puts out. The test for a full counter is made
when the next pixel arrives. -/
def rluPixel (p : BitVec 1) (r : Rlu) : Rlu × List Byte :=
  if r.started then
    if p ≠ r.cur ∨ r.cnt = 15 then
      ({ r with cur := p, cnt := 1 }, encode (.run r.cnt (r.cur.setWidth 4)))
    else ({ r with cnt := r.cnt + 1 }, [])
  else ({ started := true, cur := p, cnt := 1 }, encode (.start (p.setWidth 8)))

/-- RLU at the end of its input (R123): the final run, or the byte 0 when no pixel came (R124). -/
def rluEnd (r : Rlu) : Rlu × List Byte :=
  (Rlu.init, if r.started then encode (.run r.cnt (r.cur.setWidth 4)) else encode (.start 0))

/-- The moves of `RLE.ENC` (R121 to R123): a beat is taken, BIN makes it a pixel (R220), RLU's bytes go to OUT. -/
def rleEncMove (s : State) : Move :=
  takeIn s
    (fun b s =>
      let (r, bs) := rluPixel (binPixel s.cfg b) s.rlu
      .unit (.next (outBytes bs { s with rlu := r })))
    (fun s =>
      let (r, bs) := rluEnd s.rlu
      .unit (.next (outEnd (outBytes bs { s with rlu := r }))))

/-! ### RLD -/

/-- START in RLD (R128, R135): the byte is the value to pad with. -/
def rldStart (v : BitVec 8) (r : Rld) : Rld := { r with first := false, cur := v }

/-- How many elements of a record are put out: no more than are missing to `total` (R128, R129). -/
def rldRoom (count : BitVec 4) (r : Rld) : Nat := min count.toNat (r.total.toNat - r.produced)

/-- RUN in RLD (R128, R132): `count` elements of the value, cut at `total`; the value becomes the one to pad with, for a
count of 0 too. -/
def rldRun (count value : BitVec 4) (r : Rld) : Rld × List Byte :=
  ({ r with cnt := count, val := value, produced := r.produced + rldRoom count r, cur := value.setWidth 8 },
    List.replicate (rldRoom count r) (value.setWidth 8))

/-- A byte that LZD passes to RLD: START if it is the first, else RUN (R128, R102). -/
def rldByte (b : Byte) (r : Rld) : Rld × List Byte :=
  if r.first then (rldStart b r, []) else rldRun (b.extractLsb' 4 4) (b.extractLsb' 0 4) r

/-- The input of RLD has ended (R128); in the containers FPR has then taken all it takes (R192, R206). -/
def rldInputEnd (s : State) : State :=
  { s with
    rld := { s.rld with ending := true }
    fpr := if s.cfg.op.lzdFeedsRld then { s.fpr with phase := .fin } else s.fpr }

/-- After the end of its input RLD pads to `total`, one element a move, then ends its message (R128, R130). -/
def rldPad (s : State) : State :=
  if s.rld.produced < s.rld.total.toNat then
    outBytes [s.rld.cur] { s with rld := { s.rld with produced := s.rld.produced + 1 } }
  else
    outEnd { s with fpr := if s.cfg.op.lzdFeedsRld then { s.fpr with phase := .idle } else s.fpr }

/-- The moves of `RLE.DEC` (R128): each data beat is an instruction, START first and RUN after; then the padding. -/
def rleDecMove (s : State) : Move :=
  if s.rld.ending then .unit (.next (rldPad s))
  else
    takeIn s
      (fun b s => decodeMove (if s.rld.first then .runStart else .runRecord) [b] (.next s) s)
      (fun s => .unit (.next (rldInputEnd s)))

/-! ### Meanings -/

/-- `RLE.ENC` (R120): the START of the operation (R224); then `rleEncMove`. -/
def execRleEnc (f : CmdFields) (s : State) : Result := startOp .rleEnc f s

/-- `RLE.DEC` (R127): the START of the operation (R224); then `rleDecMove`. -/
def execRleDec (f : CmdFields) (s : State) : Result := startOp .rleDec f s

/-- START (R81, R128, R135): RLD takes the whole byte as the value to pad with; no element is put out. -/
def execStart (v : BitVec 8) (s : State) : Result := .next { s with rld := rldStart v s.rld }

/-- RUN (R82, R102, R128): RLD expands the record onto OUT. -/
def execRun (count value : BitVec 4) (s : State) : Result :=
  let (r, es) := rldRun count value s.rld
  .next (outBytes es { s with rld := r })

end Sys2Proof.Machine
end

