-- ==== Sys2Proof/Machine/Compressor.lean ====
section
/-! DEFINITION. The window compressor (41_window_compressor.md): match search, field packer, flag grouping, the step form
R152 of unit LZC, and the meaning of `LZ.COMP`. -/

namespace Sys2Proof.Machine

/-! ### Match search -/

/-- The length of the common front of two byte sequences, at most `n`. -/
def commonPrefix : Nat → List Byte → List Byte → Nat
  | n + 1, a :: as, b :: bs => if a = b then commonPrefix n as bs + 1 else 0
  | _, _, _ => 0

/-- `MATCHLEN(D, i, j)` (R142): capped at 255, ended by the end of the input or by the first mismatch; a match may run past
position `i`. -/
def matchLen (d : List Byte) (i j : Nat) : Nat := commonPrefix Config.maxMatch (d.drop j) (d.drop i)

/-- The scan of R143 over `n` more candidates, from offset `off` outward; a strictly longer match replaces the best. -/
def searchFrom (d : List Byte) (i : Nat) : Nat → Nat → Nat × Nat → Nat × Nat
  | 0, _, best => best
  | n + 1, off, best =>
    let len := matchLen d i (i - off)
    searchFrom d i n (off + 1) (if best.2 < len then (off, len) else best)

/-- `FIND(D, i)` (R143, R141, R154): the best offset and length, nearest first, over every candidate of the window. -/
def find (d : List Byte) (i : Nat) : Nat × Nat := searchFrom d i (min i Config.windowSize) 1 (0, 0)

/-- The payload of the token at position `i` with search result `m` (R144, R146, R147): a back-reference or the byte. -/
def tokenBytes (d : List Byte) (i : Nat) (m : Nat × Nat) : List Byte :=
  if Config.minMatch ≤ m.2 then packOff m.1 ++ packLen m.2 else (d.drop i).take 1

/-- How far the token advances (R145). -/
def tokenAdvance (m : Nat × Nat) : Nat := if Config.minMatch ≤ m.2 then m.2 else 1

/-- The bit of token `t` in its FLAG byte (R148, R56). -/
def tokenFlag (t : Nat) (m : Nat × Nat) : BitVec 8 :=
  if Config.minMatch ≤ m.2 then BitVec.ofNat 8 (2 ^ t) else 0

/-! ### The step form of LZC -/

/-- An input byte is stored as it arrives (R152). -/
def lzcStore (b : Byte) (s : State) : Result :=
  if s.lzc.nIn + 1 < Config.posLimit then
    .next { s with hbuf := Memory.write s.hbuf s.lzc.nIn b, lzc := { s.lzc with nIn := s.lzc.nIn + 1 } }
  else .refused .counterLimit

/-- Bytes that RLU hands to LZC, at most one a move (R123). -/
def lzcStoreAll : List Byte → State → Result
  | [], s => .next s
  | b :: bs, s => andThen (lzcStore b s) (lzcStoreAll bs)

/-- The end of LZC's input block has been seen (R152). -/
def lzcInputEnd (s : State) : State := { s with lzc := { s.lzc with eoi := true } }

/-- May a token step fire (R152)? Every byte MATCHLEN can read is present. -/
def lzcReady (l : Lzc) : Bool := decide (l.i < l.nIn) && (l.eoi || decide (Config.maxMatch ≤ l.nIn - l.i))

/-- The token step on the block received so far (R152, R143 to R148). After the search `j` and `len` are those of the last
candidate of R143 (log 7). -/
def lzcTokenOn (d : List Byte) (s : State) : State :=
  let l := s.lzc
  let m := find d l.i
  let payload := tokenBytes d l.i m
  let last := l.i - Config.windowSize
  { s with
    gbuf := Memory.writeAll s.gbuf l.glen payload
    lzc :=
      { l with
        i := l.i + tokenAdvance m
        j := if l.i = 0 then l.j else last
        len := if l.i = 0 then l.len else matchLen d l.i last
        bestLen := m.2
        bestOff := m.1
        t := l.t + 1
        flag := l.flag ||| tokenFlag l.t m
        glen := l.glen + payload.length } }

/-- The token step (R152); HBUF is read as the sequence it holds (R60). -/
def lzcToken (s : State) : Result :=
  match Memory.bytes s.hbuf s.lzc.nIn with
  | none => .fault .unwrittenByte
  | some d => .next (lzcTokenOn d s)

/-- Where LZC's bytes go: OUT, or in `VID.ENC` PBUF (R201). -/
def lzcOut (bs : List Byte) (s : State) : Result :=
  if s.cfg.op = .vidEnc then pbufAppend bs s else .next (outBytes bs s)

/-- After a group has been put out (R152). -/
def lzcGroupReset (s : State) : State := { s with gbuf := [], lzc := { s.lzc with flag := 0, t := 0, glen := 0 } }

/-- The group-close step (R152): the FLAG byte, then the payloads in order (R148, R149). -/
def lzcGroupClose (s : State) : Result :=
  match Memory.bytes s.gbuf s.lzc.glen with
  | none => .fault .unwrittenByte
  | some g => andThen (lzcOut (encode (.flag s.lzc.flag) ++ g) s) (fun s => .next (lzcGroupReset s))

/-- The finish step (R152): `OutEnd()`; FRA goes to IDLE in `IMG.ENC` (R190) and to LEN in `VID.ENC` (R201). -/
def lzcFinish (s : State) : State :=
  match s.cfg.op with
  | .vidEnc => { s with fra := { s.fra with phase := .len } }
  | .imgEnc => outEnd { s with fra := { s.fra with phase := .idle } }
  | _ => outEnd s

/-- Must the group close (R152)? It has eight tokens, or the block is done and it has any. -/
def lzcGroupFull (l : Lzc) : Bool :=
  decide (l.t = Config.group) || (decide (0 < l.t) && l.eoi && decide (l.i = l.nIn))

/-- Is the block complete (R152)? -/
def lzcComplete (l : Lzc) : Bool := l.eoi && decide (l.i = l.nIn) && decide (l.t = 0)

/-- LZC's own moves: group close before a further token, then a token, then the finish (R152); `next` is what happens when
none of them can fire. Tokens come before further input (log 12). -/
def lzcMove (s : State) (next : Move) : Move :=
  if lzcGroupFull s.lzc then .unit (lzcGroupClose s)
  else if lzcReady s.lzc then .unit (lzcToken s)
  else if lzcComplete s.lzc then .unit (.next (lzcFinish s))
  else next

/-- The moves of `LZ.COMP` (R152). -/
def lzCompMove (s : State) : Move :=
  lzcMove s
    (takeIn s
      (fun b s => .unit (lzcStore b s))
      (fun s => .unit (.next (lzcInputEnd s))))

/-! ### Meaning -/

/-- `LZ.COMP` (R140): the START of the operation (R224); then `lzCompMove`. -/
def execLzComp (f : CmdFields) (s : State) : Result := startOp .lzComp f s

end Sys2Proof.Machine
end

