-- ==== Sys2Proof/Machine/Decompressor.lean ====
section
/-! DEFINITION. The window decompressor (42_window_decompressor.md): the step form R180 of unit LZD, and the meanings of
`LZ.DECOMP`, FLAG, LIT and the four shapes of REF. -/

namespace Sys2Proof.Machine

/-! ### Shared operations of LZD -/

/-- A byte LZD has produced goes to OUT, or in the containers to RLD, whose elements go to OUT (R180, R192, R206). -/
def lzdPass (b : Byte) (s : State) : State :=
  if s.cfg.op.lzdFeedsRld then
    let (r, es) := rldByte b s.rld
    outBytes es { s with rld := r }
  else outBytes [b] s

/-- `Emit(v)` (R180): the byte enters DHIST, is counted and passed on. -/
def lzdEmit (b : Byte) (s : State) : Result :=
  if s.lzd.outLen + 1 < Config.posLimit then
    .next (lzdPass b
      { s with dhist := Memory.write s.dhist s.lzd.outLen b, lzd := { s.lzd with outLen := s.lzd.outLen + 1 } })
  else .refused .counterLimit

/-- A token is done (R180, R171): the next item is a FLAG after the eighth. -/
def lzdTokenDone (s : State) : State :=
  { s with
    lzd :=
      { s.lzd with
        t := s.lzd.t + 1
        phase := if s.lzd.t + 1 = Config.group then .flag else .token
        tok := [] } }

/-- The copy of `n` more bytes, one at a time (R175, R176, R67): a source below 0 or not yet produced ends the copy. -/
def lzdCopy : Nat → State → Result
  | 0, s => .next s
  | n + 1, s =>
    let src := s.lzd.start + s.lzd.k
    if src < 0 ∨ (s.lzd.outLen : Int) ≤ src then .next s
    else
      match Memory.read s.dhist src.toNat with
      | none => .fault .unwrittenByte
      | some b =>
        andThen (lzdEmit b s) (fun s => lzdCopy n { s with lzd := { s.lzd with k := s.lzd.k + 1 } })

/-- A back-reference that has been parsed (R175, R180 row COPY): the start is taken once, the bytes are copied, the token
is done. -/
def lzdReference (off : BitVec 14) (len : BitVec 12) (s : State) : Result :=
  andThen
    (lzdCopy len.toNat
      { s with
        lzd := { s.lzd with off := off, len := len, k := 0, start := (s.lzd.outLen : Int) - (off.toNat : Int) } })
    (fun s => .next (lzdTokenDone s))

/-! ### Taking bytes -/

/-- A byte of a back-reference (R180, rows TOKEN with flag bit 1, OFF2, LEN1, LEN2). -/
def lzdParse (b : Byte) (l : Lzd) : Lzd :=
  let l := { l with tok := l.tok ++ [b] }
  match l.phase with
  | .token =>
    if b.getLsbD 6 then { l with off := offHigh b, phase := .off2 } else { l with off := offOfByte b, phase := .len1 }
  | .off2 => { l with off := l.off ||| b.setWidth 14, phase := .len1 }
  | .len1 =>
    if b.getLsbD 4 then { l with len := lenHigh b, phase := .len2 } else { l with len := lenOfByte b, phase := .copy }
  | .len2 => { l with len := l.len ||| b.setWidth 12, phase := .copy }
  | .flag => l
  | .copy => l

/-- LZD takes a byte of the block (R180): `p` counts it; a FLAG or a literal is a whole instruction, a byte of a
back-reference is parsed. -/
def lzdByte (b : Byte) (s : State) : Move :=
  if s.lzd.p + 1 < Config.posLimit then
    let s := { s with lzd := { s.lzd with p := s.lzd.p + 1 } }
    match s.lzd.phase with
    | .flag => decodeMove .flag [b] (.next s) s
    | .token =>
      if s.lzd.flags.getLsbD s.lzd.t then .unit (.next { s with lzd := lzdParse b s.lzd })
      else decodeMove .literal [b] (.next s) s
    | .off2 | .len1 | .len2 | .copy => .unit (.next { s with lzd := lzdParse b s.lzd })
  else .unit (.refused .counterLimit)

/-- LZD's moves: a back-reference that is whole runs without input (R180 row COPY), else a byte is taken by `next`. -/
def lzdMove (s : State) (next : Move) : Move :=
  if s.lzd.phase = .copy then decodeMove .reference s.lzd.tok (.next (lzdTokenDone s)) s else next

/-- The moves of `LZ.DECOMP` (R180). An `End` inside a token drops the token (R178, log 26). -/
def lzDecompMove (s : State) : Move :=
  lzdMove s (takeIn s lzdByte (fun s => .unit (.next (outEnd s))))

/-! ### Meanings -/

/-- `LZ.DECOMP` (R170): the START of the operation (R224); then `lzDecompMove`. -/
def execLzDecomp (f : CmdFields) (s : State) : Result := startOp .lzDecomp f s

/-- FLAG (R86, R171, R180): the flag bits of the next group. -/
def execFlag (f : BitVec 8) (s : State) : Result :=
  .next { s with lzd := { s.lzd with flags := f, t := 0, phase := .token } }

/-- LIT (R87, R172, R180): the byte is produced. -/
def execLit (b : BitVec 8) (s : State) : Result := andThen (lzdEmit b s) (fun s => .next (lzdTokenDone s))

/-- `REF.11` (R88, R101, R175). -/
def execRef11 (off len : BitVec 8) (s : State) : Result := lzdReference (offOfByte off) (lenOfByte len) s

/-- `REF.12` (R88, R101, R175). -/
def execRef12 (off : BitVec 8) (len : BitVec 12) (s : State) : Result := lzdReference (offOfByte off) len s

/-- `REF.21` (R88, R101, R175). -/
def execRef21 (off : BitVec 14) (len : BitVec 8) (s : State) : Result := lzdReference off (lenOfByte len) s

/-- `REF.22` (R88, R101, R175). -/
def execRef22 (off : BitVec 14) (len : BitVec 12) (s : State) : Result := lzdReference off len s

end Sys2Proof.Machine
end

