-- ==== Sys2Proof/Machine/SingleImage.lean ====
section
/-! DEFINITION. The single-image container (43_single_image.md): the moves of `IMG.ENC` and `IMG.DEC`, and the meanings of
`IMG.ENC`, `IMG.DEC` and IMGHDR. -/

namespace Sys2Proof.Machine

/-! ### The encode pipeline, shared by both containers -/

/-- One input beat of an image or frame through BIN, RLU and LZC (R190, R201). -/
def pixelMove (s : State) : Move :=
  takeIn s
    (fun b s =>
      let (r, bs) := rluPixel (binPixel s.cfg b) s.rlu
      .unit (lzcStoreAll bs { s with rlu := r }))
    (fun s =>
      let (r, bs) := rluEnd s.rlu
      .unit (andThen (lzcStoreAll bs { s with rlu := r }) (fun s => .next (lzcInputEnd s))))

/-- FRA puts out header bytes, in one move (log 18), and goes to a phase (R190, R201; log 23). -/
def fraHeader (bs : List Byte) (phase : FraPhase) (s : State) : State :=
  outBytes bs { s with fra := { s.fra with hcnt := bs.length, phase := phase } }

/-- The moves of `IMG.ENC` (R190). -/
def imgEncMove (s : State) : Move :=
  match s.fra.phase with
  | .hdr => .unit (.next (fraHeader (imgHdrBytes s.cfg) .body s))
  | .body => lzcMove s (pixelMove s)
  | .idle | .len | .payload | .fin => .wait

/-! ### FPR -/

/-- FPR takes a header or length byte into its stage (R34, R192, R205, R206). -/
def fprStage (b : Byte) (s : State) : State :=
  { s with fpr := { s.fpr with stage := s.fpr.stage ++ [b], hcnt := s.fpr.hcnt + 1 } }

/-- FPR collects `n` bytes, which are then an instruction; an `End` before the last raises (R193, R205, R207). -/
def fprCollect (n : Nat) (ctx : Ctx) (e : Exc) (s : State) : Move :=
  if n ≤ s.fpr.hcnt then decodeMove ctx s.fpr.stage (.next (raiseExc e s)) s
  else takeIn s (fun b s => .unit (.next (fprStage b s))) (fun s => .unit (.next (raiseExc e s)))

/-- The moves of `IMG.DEC` (R192): the header, then every byte to LZD, then the padding. -/
def imgDecMove (s : State) : Move :=
  if s.rld.ending then .unit (.next (rldPad s))
  else
    match s.fpr.phase with
    | .hdr => fprCollect Config.imgHdrBytes .imgHeader .malformedHeader s
    | .decode => lzdMove s (takeIn s lzdByte (fun s => .unit (.next (rldInputEnd s))))
    | .idle | .len | .payload | .fin => .wait

/-! ### Meanings -/

/-- `IMG.ENC` (R190): the START of the operation (R224); then `imgEncMove`. -/
def execImgEnc (f : CmdFields) (s : State) : Result := startOp .imgEnc f s

/-- `IMG.DEC` (R192): the START of the operation (R224); then `imgDecMove`. -/
def execImgDec (f : CmdFields) (s : State) : Result := startOp .imgDec f s

/-- IMGHDR (R97, R192, R194, R195): the header registers are written, RLD's total is the product, the rest of the input is the block. -/
def execImgHeader (w h : BitVec 32) (s : State) : Result :=
  .next
    { s with
      width := w
      height := h
      rld := { s.rld with total := totalBits w h }
      fpr := { s.fpr with phase := .decode } }

end Sys2Proof.Machine
end

