-- ==== Sys2Proof/Machine/MultiFrame.lean ====
section
/-! DEFINITION. The multi-frame container (44_multi_frame.md): the moves of `VID.ENC`, `VID.HDR` and `VID.FRAME`, and the
meanings of those operations, of VIDHDR and of FRAMELEN. -/

namespace Sys2Proof.Machine

/-! ### VID.ENC -/

/-- The frame loop of R201: another frame, or the end. -/
def fraNext (fidx count : Word) : FraPhase := if fidx.toNat < count.toNat then .body else .fin

/-- A FrameRecord has been put out (R201): it is counted, PBUF is free, and RLU and LZC start afresh (R204), after
the last record too, for which R201 and R31 do not say so alike (log 25). -/
def fraFrameDone (s : State) : State :=
  { initEncoders s with
    pbuf := []
    fidx := s.fidx + 1
    fra := { s.fra with plen := 0, pout := 0, phase := fraNext (s.fidx + 1) s.cfg.count } }

/-- FRA puts out the payload held in PBUF (R201), one byte a move (R59). The record is counted once its last byte has been
put out (R27, log 19). -/
def fraPayload (s : State) : Result :=
  if s.fra.pout < s.fra.plen then
    match Memory.read s.pbuf s.fra.pout with
    | none => .fault .unwrittenByte
    | some b => .next (outBytes [b] { s with fra := { s.fra with pout := s.fra.pout + 1 } })
  else .next (fraFrameDone s)

/-- The moves of `VID.ENC` (R201): header, then for each frame the block into PBUF, its length, its bytes; then the end. -/
def vidEncMove (s : State) : Move :=
  match s.fra.phase with
  | .hdr => .unit (.next (fraHeader (vidHdrBytes s.cfg) (fraNext s.fidx s.cfg.count) s))
  | .body => lzcMove s (pixelMove s)
  | .len =>
    .unit (.next (outBytes (encode (.frameLen (BitVec.ofNat 32 s.fra.plen))) { s with fra := { s.fra with phase := .payload } }))
  | .payload => .unit (fraPayload s)
  | .fin => .unit (.next (outEnd { s with fra := { s.fra with phase := .idle } }))
  | .idle => .wait

/-! ### VID.HDR -/

/-- The moves of `VID.HDR` (R205): twelve bytes, then the header. -/
def vidHdrMove (s : State) : Move :=
  match s.fpr.phase with
  | .hdr => fprCollect Config.vidHdrBytes .vidHeader .malformedHeader s
  | .idle | .len | .payload | .decode | .fin => .wait

/-! ### VID.FRAME -/

/-- A payload byte goes into PBUF (R206); R16 admits no payload longer than `PBUF_BYTES`. -/
def fprPayloadByte (b : Byte) (s : State) : Result :=
  if s.pbufBytes ≤ s.fpr.got then .refused .payloadBufferFull
  else .next { s with pbuf := Memory.write s.pbuf s.fpr.got b, fpr := { s.fpr with got := s.fpr.got + 1 } }

/-- The record is complete (R206): RLD's total is the 16-bit product, decoding begins. -/
def fprPayloadDone (s : State) : State :=
  { s with
    rld :=
      { s.rld with total := totalBits ((low16 s.cfg.width).setWidth 32) ((low16 s.cfg.height).setWidth 32) }
    fpr := { s.fpr with phase := .decode } }

/-- LZD takes the next byte of the payload in PBUF, or finds its end (R206, R170). -/
def lzdFromPbuf (s : State) : Move :=
  if s.lzd.p < s.fpr.need.toNat then
    match Memory.read s.pbuf s.lzd.p with
    | none => .unit (.fault .unwrittenByte)
    | some b => lzdByte b s
  else .unit (.next (rldInputEnd s))

/-- The moves of `VID.FRAME` (R206): the length field, the payload into PBUF, its decoding, the padding. -/
def vidFrameMove (s : State) : Move :=
  if s.rld.ending then .unit (.next (rldPad s))
  else
    match s.fpr.phase with
    | .len => fprCollect Config.lenFieldBytes .frameLen .truncatedPayload s
    | .payload =>
      if s.fpr.need.toNat ≤ s.fpr.got then .unit (.next (fprPayloadDone s))
      else takeIn s (fun b s => .unit (fprPayloadByte b s)) (fun s => .unit (.next (raiseExc .truncatedPayload s)))
    | .decode => lzdMove s (lzdFromPbuf s)
    | .idle | .hdr | .fin => .wait

/-! ### Meanings -/

/-- `VID.ENC` (R200): the START of the operation (R224); then `vidEncMove`. -/
def execVidEnc (f : CmdFields) (s : State) : Result := startOp .vidEnc f s

/-- `VID.HDR` (R205): the START of the operation (R224); then `vidHdrMove`. -/
def execVidHdr (f : CmdFields) (s : State) : Result := startOp .vidHdr f s

/-- `VID.FRAME` (R206): the START of the operation (R224); then `vidFrameMove`. -/
def execVidFrame (f : CmdFields) (s : State) : Result := startOp .vidFrame f s

/-- VIDHDR (R98, R205): the four header registers are written, `fidx` is 0, `GEOM0` records a zero, and the operation ends
with `DONE`, having put nothing on OUT. -/
def execVidHeader (w h : BitVec 16) (rate count : BitVec 32) (s : State) : Result :=
  .next
    { s with
      width := w.setWidth 32
      height := h.setWidth 32
      frameRate := rate
      frameCount := count
      fidx := 0
      status := statusDone (statusGeom (w == 0 || h == 0) s.status)
      fpr := { s.fpr with phase := .idle } }

/-- FRAMELEN (R99, R206): the declared length; the payload follows. -/
def execFrameLen (n : BitVec 32) (s : State) : Result :=
  .next { s with fpr := { s.fpr with need := n, phase := .payload } }

end Sys2Proof.Machine
end

