-- ==== Sys2Proof/Machine/Fetch.lean ====
section
/-! DEFINITION. What BFC does next: the move of the running operation (00_scope.md R11, 45 R224), the port signal
`in_ready`, and how a word of the opcode table is laid where the next step fetches. -/

namespace Sys2Proof.Machine

/-- The move of the running operation (R11), with no beat waiting on OUT. -/
def opMove (s : State) : Move :=
  match s.cfg.op with
  | .none => .wait
  | .rleEnc => rleEncMove s
  | .lzComp => lzCompMove s
  | .imgEnc => imgEncMove s
  | .vidEnc => vidEncMove s
  | .rleDec => rleDecMove s
  | .lzDecomp => lzDecompMove s
  | .imgDec => imgDecMove s
  | .vidHdr => vidHdrMove s
  | .vidFrame => vidFrameMove s

/-- `in_ready` (R71): BFC is busy, has no beat to deliver, and its next move takes a beat. 0 whenever `BUSY` = 0. -/
def inReady (s : State) : Bool :=
  s.status.busy && s.outPend.isEmpty && (opMove { s with inq := [] }).waits && !(opMove { s with inq := [.fin] }).waits

/-! ### Laying a table word before the machine -/

/-- BFC running `op`, with nothing to deliver, no host act pending, and the given beats on IN. -/
def runningOp (op : Op) (beats : List Beat) (s : State) : State :=
  { s with
    status := { s.status with busy := true }
    cfg := { s.cfg with op := op }
    outPend := []
    inq := beats ++ s.inq
    inTaken := 0
    script := [] }

/-- The bytes of an instruction where the step finds it (log 15): a command as the host's next register write, to an idle
BFC; a one-byte token as the next beat of the unit that takes it; a back-reference, a header or a length field whole in
the register it is collected in. -/
def placeAt (ctx : Ctx) (w : Nat) (bs : List Byte) (s : State) : State :=
  match ctx with
  | .command =>
    { s with
      status := { s.status with busy := false }
      outPend := []
      script := { wait := 0, act := .write 0 (BitVec.ofNat 32 w) } :: s.script }
  | .runStart =>
    { runningOp .rleDec (bs.map Beat.data) s with rld := { s.rld with first := true, ending := false } }
  | .runRecord =>
    { runningOp .rleDec (bs.map Beat.data) s with rld := { s.rld with first := false, ending := false } }
  | .flag => { runningOp .lzDecomp (bs.map Beat.data) s with lzd := { s.lzd with phase := .flag, p := 0 } }
  | .literal =>
    { runningOp .lzDecomp (bs.map Beat.data) s with lzd := { s.lzd with phase := .token, flags := 0, t := 0, p := 0 } }
  | .reference =>
    { runningOp .lzDecomp [] s with
      lzd := bs.foldl (fun l b => lzdParse b l) { s.lzd with phase := .token, flags := 1, t := 0, tok := [] } }
  | .imgHeader =>
    { runningOp .imgDec [] s with
      fpr := { s.fpr with phase := .hdr, stage := bs, hcnt := bs.length }, rld := { s.rld with ending := false } }
  | .vidHeader =>
    { runningOp .vidHdr [] s with fpr := { s.fpr with phase := .hdr, stage := bs, hcnt := bs.length } }
  | .frameLen =>
    { runningOp .vidFrame [] s with
      fpr := { s.fpr with phase := .len, stage := bs, hcnt := bs.length }, rld := { s.rld with ending := false } }

/-- A table word before the machine; a width the table does not have changes nothing. -/
def placeTableWord (nbits w : Nat) (s : State) : State :=
  match tableCtx nbits w with
  | none => s
  | some ctx => placeAt ctx w (tableBytes (nbits / 8) w) s

end Sys2Proof.Machine
end

