-- ==== Sys2Proof/Machine/Dispatch.lean ====
section
/-! DEFINITION. One arm per instruction. -/

namespace Sys2Proof.Machine

def exec (i : Instr) (s : State) : Host.Outcome State Fault Refusal :=
  match i with
  | .rleEnc f => Sys2Proof.Machine.execRleEnc f s
  | .lzComp f => Sys2Proof.Machine.execLzComp f s
  | .imgEnc f => Sys2Proof.Machine.execImgEnc f s
  | .vidEnc f => Sys2Proof.Machine.execVidEnc f s
  | .rleDec f => Sys2Proof.Machine.execRleDec f s
  | .lzDecomp f => Sys2Proof.Machine.execLzDecomp f s
  | .imgDec f => Sys2Proof.Machine.execImgDec f s
  | .vidHdr f => Sys2Proof.Machine.execVidHdr f s
  | .vidFrame f => Sys2Proof.Machine.execVidFrame f s
  | .reservedOp0 f => Sys2Proof.Machine.execReservedOp0 f s
  | .reservedOp10 f => Sys2Proof.Machine.execReservedOp10 f s
  | .reservedOp11 f => Sys2Proof.Machine.execReservedOp11 f s
  | .reservedOp12 f => Sys2Proof.Machine.execReservedOp12 f s
  | .reservedOp13 f => Sys2Proof.Machine.execReservedOp13 f s
  | .reservedOp14 f => Sys2Proof.Machine.execReservedOp14 f s
  | .reservedOp15 f => Sys2Proof.Machine.execReservedOp15 f s
  | .start v => Sys2Proof.Machine.execStart v s
  | .run count value => Sys2Proof.Machine.execRun count value s
  | .flag f => Sys2Proof.Machine.execFlag f s
  | .lit b => Sys2Proof.Machine.execLit b s
  | .ref11 off len => Sys2Proof.Machine.execRef11 off len s
  | .ref12 off _ len => Sys2Proof.Machine.execRef12 off len s
  | .ref21 _ off len => Sys2Proof.Machine.execRef21 off len s
  | .ref22 _ off _ len => Sys2Proof.Machine.execRef22 off len s
  | .imgHeader w h => Sys2Proof.Machine.execImgHeader w h s
  | .vidHeader w h rate count => Sys2Proof.Machine.execVidHeader w h rate count s
  | .frameLen n => Sys2Proof.Machine.execFrameLen n s

end Sys2Proof.Machine
end

