-- ==== Sys2Proof/Machine/Agents.lean ====
section
/-! DEFINITION. The two agents of 00_scope.md R11: the next move of BFC, and the acts of the host (R14). -/

namespace Sys2Proof.Machine

/-- The next move of BFC, none if it has none: it delivers the beat on OUT if the host takes it (R71), else the running
operation moves. With `BUSY` = 0 BFC does nothing (R249, R260). -/
def bfcMove (s : State) : Option Result :=
  match s.outPend with
  | b :: rest => if s.outReady then some (.next (acceptBeat b rest s)) else none
  | [] =>
    if s.status.busy then
      match opMove s with
      | .wait => none
      | .unit r => some r
      | .instr i s' => some (exec i s')
    else none

/-- A write of register 0 (R22, R224): with bit 31 = 1 it is a command, else a plain register write. -/
def writeCtrl (v : Word) (s : State) : Result :=
  match decodeCommand v with
  | .ok i => exec i s
  | .error _ => .next (writeReg 0 v s)

/-- An act of the host (R14, R71, R72, R260). It never falls on the same edge as an update by BFC (log 9). -/
def hostAct (a : HostAct) (s : State) : Result :=
  match a with
  | .write n v =>
    if n = 0 then writeCtrl v { s with regAddr := n } else .next (writeReg n v { s with regAddr := n })
  | .read n => .next { s with regAddr := n }
  | .offer b => .next { s with inq := s.inq ++ [b] }
  | .ready r => .next { s with outReady := r }
  | .reset => .next (resetBfc s)

end Sys2Proof.Machine
end

