-- ==== Sys2Proof/Machine/Step.lean ====
section
/-! DEFINITION. One step of the whole: a move of BFC, or an act of the host between two moves of BFC (00_scope.md R11,
R14). Which one is plain data: the script says how many moves of BFC come before the host's next act (log 2). -/

namespace Sys2Proof.Machine

/-- One step. Where neither agent has a move, the state stays as it is: the machine waits (R226, log 3). -/
def step (s : State) : Host.Outcome State Fault Refusal :=
  match s.script with
  | [] =>
    match bfcMove s with
    | some r => r
    | none => .next s
  | ⟨0, a⟩ :: rest => hostAct a { s with script := rest }
  | ⟨n + 1, a⟩ :: rest =>
    match bfcMove { s with script := ⟨n, a⟩ :: rest } with
    | some r => r
    | none => hostAct a { s with script := rest }

/-- The state with a table word laid where the very next step fetches and runs it (log 15). -/
def State.withFetchWord (s : State) (nbits w : Nat) : State := placeTableWord nbits w s

end Sys2Proof.Machine
end

