-- ==== Sys2Proof/Machine/Reference.lean ====
section
/-! DEFINITION. The functional forms of the operations, as their rules give them (40 R120, R127; 41 R151; 42 R179; 43 R190,
R192; 44 R200, R206), and the well-formedness of streams (30 R83, R95). No step calls them: statements compare the
machine with them. -/

namespace Sys2Proof.Machine

/-! ### Run-length -/

/-- The loop of `RLE_ENC` (R120) with a run of `cnt` pixels `cur` being counted. -/
def rleRuns (cur : BitVec 1) (cnt : Nat) : List (BitVec 1) → List Byte
  | [] => [runByte (BitVec.ofNat 4 cnt) (cur.setWidth 4)]
  | b :: bs =>
    if b ≠ cur ∨ cnt = Config.runMax then runByte (BitVec.ofNat 4 cnt) (cur.setWidth 4) :: rleRuns b 1 bs
    else rleRuns cur (cnt + 1) bs

/-- `RLE_ENC(bits)` (R120). -/
def rleEnc : List (BitVec 1) → List Byte
  | [] => [0]
  | b :: bs => b.setWidth 8 :: rleRuns b 1 bs

/-- The elements of one RUN byte (R127, R102). -/
def runElements (b : Byte) : List Byte :=
  List.replicate (b.extractLsb' 4 4).toNat ((b.extractLsb' 0 4).setWidth 8)

/-- The value to pad with after some RUN bytes (R127, R130). -/
def padValue (cur : Byte) (runs : List Byte) : Byte :=
  runs.foldl (fun _ b => (b.extractLsb' 0 4).setWidth 8) cur

/-- `RLE_DEC(S, T)` (R127): expand, cut to `T`, pad to `T`. -/
def rleDec (s : List Byte) (total : Nat) : List Byte :=
  let out := s.tail.flatMap runElements
  out.take total ++ List.replicate (total - out.length) (padValue (s.headD 0) s.tail)

/-- Bytes that RLD takes in order: its registers after, and the elements put out (R128). -/
def rldBytes : List Byte → Rld → Rld × List Byte
  | [], r => (r, [])
  | b :: bs, r => ((rldBytes bs (rldByte b r).1).1, (rldByte b r).2 ++ (rldBytes bs (rldByte b r).1).2)

/-- Bytes that LZD passes on in order (R180, `lzdPass`): to OUT, or in the containers through RLD. -/
def lzdPassAll (bs : List Byte) (s : State) : State :=
  if s.cfg.op.lzdFeedsRld then outBytes (rldBytes bs s.rld).2 { s with rld := (rldBytes bs s.rld).1 }
  else outBytes bs s

/-! ### Window compressor -/

/-- At most `n` tokens of a group from token `t` and position `i` on (R151): flag bits, payload, position after. -/
def lzGroup (d : List Byte) : Nat → Nat → Nat → BitVec 8 × List Byte × Nat
  | 0, _, i => (0, [], i)
  | n + 1, t, i =>
    if d.length ≤ i then (0, [], i)
    else
      let m := find d i
      let r := lzGroup d n (t + 1) (i + tokenAdvance m)
      (tokenFlag t m ||| r.1, tokenBytes d i m ++ r.2.1, r.2.2)

/-- The groups from position `i` on (R151), at most `fuel` of them. -/
def lzGroups (d : List Byte) : Nat → Nat → List Byte
  | 0, _ => []
  | fuel + 1, i =>
    if d.length ≤ i then []
    else
      let r := lzGroup d Config.group 0 i
      r.1 :: r.2.1 ++ lzGroups d fuel r.2.2

/-- `LZ_COMP(D)` (R151). Every group advances, so `|D|` groups are enough (R145). -/
def lzComp (d : List Byte) : List Byte := lzGroups d d.length 0

/-! ### Window decompressor -/

/-- The copy loop of R175 for `n` more bytes from source `src`: the output after it. -/
def copyLoop : Nat → Int → List Byte → List Byte
  | 0, _, out => out
  | n + 1, src, out =>
    if src < 0 ∨ (out.length : Int) ≤ src then out
    else copyLoop n (src + 1) (out ++ (out.drop src.toNat).take 1)

/-- The output after a back-reference (R175): the start is taken once, from the output as it stands. -/
def copyRef (off len : Nat) (out : List Byte) : List Byte :=
  copyLoop len ((out.length : Int) - (off : Int)) out

/-- The loop of `LZ_DECOMP` (R179) with `t` tokens of the group done; `t` = 8 where a FLAG is expected. Every round takes a
byte, so `|B|` rounds are enough. -/
def lzTokens : Nat → Nat → BitVec 8 → List Byte → List Byte → List Byte
  | 0, _, _, _, out => out
  | _ + 1, _, _, [], out => out
  | fuel + 1, t, flags, b :: rest, out =>
    if t = Config.group then lzTokens fuel 0 b rest out
    else if flags.getLsbD t then
      match decode .reference (b :: rest) with
      | .error _ => out
      | .ok (i, rest') =>
        lzTokens fuel (t + 1) flags rest' (copyRef (refOffset i).toNat (refLength i).toNat out)
    else lzTokens fuel (t + 1) flags rest (out ++ [b])

/-- `LZ_DECOMP(B)` (R179). -/
def lzDecomp (b : List Byte) : List Byte := lzTokens b.length Config.group 0 b []

/-! ### Containers -/

/-- `IMG_ENC` (R190). -/
def imgEnc (bits : List (BitVec 1)) (w h : Word) : List Byte := be32 w ++ be32 h ++ lzComp (rleEnc bits)

/-- `IMG_DEC` (R192); none where it raises MalformedHeader. -/
def imgDec (file : List Byte) : Option (Word × Word × List Byte) :=
  match decode .imgHeader file with
  | .ok (.imgHeader w h, payload) => some (w, h, rleDec (lzDecomp payload) (w.toNat * h.toNat))
  | _ => none

/-- A FrameRecord (R99, R200). -/
def frameRecord (bits : List (BitVec 1)) : List Byte :=
  let c := lzComp (rleEnc bits)
  be32 (BitVec.ofNat 32 c.length) ++ c

/-- `VID_ENC` (R200), the frame count being the number of frames. -/
def vidEnc (frames : List (List (BitVec 1))) (w h : BitVec 16) (rate : Word) : List Byte :=
  be16 w ++ be16 h ++ be32 rate ++ be32 (BitVec.ofNat 32 frames.length) ++ frames.flatMap frameRecord

/-- The elements `VID_FRAME` puts out for a payload (R206). -/
def vidFrame (payload : List Byte) (w h : BitVec 16) : List Byte := rleDec (lzDecomp payload) (w.toNat * h.toNat)

/-! ### Well-formed streams -/

/-- A RUN byte the encoder can emit (R82). -/
def runByteOk (b : Byte) : Bool := (b.extractLsb' 4 4 != 0) && decide ((b.extractLsb' 0 4).toNat ≤ 1)

/-- `WF_RS(S)` (R83). -/
def wfRs : List Byte → Bool
  | [] => false
  | v :: runs =>
    decide (v.toNat ≤ 1) && runs.all runByteOk &&
      (match runs with
       | [] => true
       | r :: _ => (r.extractLsb' 0 4).setWidth 8 == v)

/-- A back-reference in the form the compressor gives it (R93, R94), with `n` bytes produced before it (R95). -/
def refCanonical (i : Instr) (n : Nat) : Bool :=
  let off := (refOffset i).toNat
  let len := (refLength i).toNat
  encode i == packOff off ++ packLen len && decide (1 ≤ off) && decide (off ≤ min n Config.windowSize) &&
    decide (Config.minMatch ≤ len) && decide (len ≤ Config.maxMatch)

/-- The loop of `WF_CB` with `t` tokens of the group done and `n` bytes produced; `t` = 8 where a FLAG is expected. -/
def wfCbFrom : Nat → Nat → BitVec 8 → List Byte → Nat → Bool
  | 0, _, _, bs, _ => bs.isEmpty
  | _ + 1, t, flags, [], _ => decide (t = Config.group) || (decide (0 < t) && (flags >>> t == 0))
  | fuel + 1, t, flags, b :: rest, n =>
    if t = Config.group then
      !rest.isEmpty && wfCbFrom fuel 0 b rest n
    else if flags.getLsbD t then
      match decode .reference (b :: rest) with
      | .error _ => false
      | .ok (i, rest') => refCanonical i n && wfCbFrom fuel (t + 1) flags rest' (n + (refLength i).toNat)
    else wfCbFrom fuel (t + 1) flags rest (n + 1)

/-- `WF_CB(B)` (R95): whole tokens, canonical fields, unused flag bits 0. -/
def wfCb (b : List Byte) : Bool := wfCbFrom (b.length + 1) Config.group 0 b 0

end Sys2Proof.Machine
end

