-- ==== Sys2Proof/Safety.lean ====
section
/-! DEFINITION. What a well-behaved state is: the invariants the spec states of `STATUS` (10_state.md R23), the widths of
the counters (R30 to R36), and that buffers hold exactly what the running operation has written (20_memory.md R62). And
what it is for an operation to run to its end (00_scope.md R13). -/

namespace Sys2Proof.Machine

/-! ### The invariant -/

/-- The buffer holds exactly positions 0 to `n - 1`. -/
abbrev Memory.filled (m : Memory) (n : Nat) : Prop := m.map Prod.fst = List.range n

/-- The invariants of R23: `BUSY`, `DONE`, `ERR` are never two at once; `ERRCODE` is 0 without `ERR` and 1 or 2 with it;
`ERR` and `GEOM0` are never both set (R239), and `GEOM0` is written at the end of an operation only (R39, in the model's
reading: log 21). -/
def StatusOk (t : Status) : Prop :=
  ¬(t.busy = true ∧ t.done = true) ∧ ¬(t.busy = true ∧ t.err = true) ∧ ¬(t.done = true ∧ t.err = true) ∧
    (t.err = false → t.errcode = 0) ∧ (t.err = true → t.errcode = 1 ∨ t.errcode = 2) ∧
    ¬(t.err = true ∧ t.geom0 = true) ∧ ¬(t.busy = true ∧ t.geom0 = true)

/-- RLU's counter is 1 to 15 once a pixel has been taken (R30). -/
def RluOk (r : Rlu) : Prop := r.started = true → r.cnt ≠ 0

/-- LZC's counters are in their ranges (R31, R32, R38), a token never passes the input received (R145), the payload
of a group fits GBUF (R7, R70), and at most the longest match stands ahead of the position, so that with the window before
it HBUF suffices (R7, R60; log 12). -/
def LzcOk (l : Lzc) : Prop :=
  l.nIn < Config.posLimit ∧ l.i ≤ l.nIn ∧ l.j ≤ l.i ∧ l.len ≤ Config.maxMatch ∧ l.bestLen ≤ Config.maxMatch ∧
    l.bestOff ≤ Config.windowSize ∧ l.t ≤ Config.group ∧ l.glen ≤ 4 * l.t ∧
    l.glen ≤ Config.gbufBytes ∧ l.nIn ≤ l.i + Config.maxMatch

/-- LZD's counters are in their ranges (R35, R38); a token is parsed only in a group with fewer than eight done. -/
def LzdOk (l : Lzd) : Prop :=
  l.p < Config.posLimit ∧ l.outLen < Config.posLimit ∧ l.t ≤ Config.group ∧ (l.phase ≠ .flag → l.t < Config.group) ∧
    l.k < 2 ^ 12 ∧ -(2 ^ 64 : Int) ≤ l.start ∧ l.start < 2 ^ 64

/-- FRA's and FPR's counters are in their ranges (R33, R34); `fra.pout` is the model's own (log 11), and so is the length
of `fpr.stage`'s contents (log 6). -/
def ContainersOk (s : State) : Prop :=
  s.fra.hcnt ≤ 12 ∧ s.fra.plen < Config.blockLimit ∧ s.fra.pout ≤ s.fra.plen ∧ s.fpr.hcnt ≤ 12 ∧
    s.fpr.stage.length = s.fpr.hcnt ∧ s.fpr.got < Config.blockLimit

/-- RLD puts out no more than `total` elements (R38). -/
def RldOk (r : Rld) : Prop := r.produced ≤ r.total.toNat

/-- The buffers hold exactly what the running operation has written, up to their fill counts (R62, held as log 6
says). -/
def BuffersOk (s : State) : Prop :=
  Memory.filled s.hbuf s.lzc.nIn ∧ Memory.filled s.gbuf s.lzc.glen ∧ Memory.filled s.dhist s.lzd.outLen ∧
    (s.cfg.op = .vidEnc → Memory.filled s.pbuf s.fra.plen ∧ s.fra.plen ≤ s.pbufBytes) ∧
    (s.cfg.op = .vidFrame →
      Memory.filled s.pbuf s.fpr.got ∧ s.fpr.got ≤ s.pbufBytes ∧ (s.fpr.phase = .decode → s.fpr.need.toNat ≤ s.fpr.got))

/-- Is FPR still taking in a header, a length or a payload? -/
def FprPhase.staging : FprPhase → Bool
  | .hdr | .len | .payload => true
  | .idle | .decode | .fin => false

/-- While FPR stages, nothing of the operation is visible: no beat waits on OUT and no element has been put out (R237; that
`GEOM0` is not set is `StatusOk`); `rld.ending` is the model's own (log 11). -/
def StagingOk (s : State) : Prop :=
  (s.cfg.op = .imgDec ∨ s.cfg.op = .vidHdr ∨ s.cfg.op = .vidFrame) → s.fpr.phase.staging = true →
    s.status.busy = true →
      s.outPend = [] ∧ (s.cfg.op ≠ .vidHdr → s.rld.produced = 0 ∧ s.rld.ending = false)

/-- The message on IN is an admitted one as far as it has been taken (R16); `inTaken` is the model's own (logs 4 and
11). -/
def StreamOk (s : State) : Prop := s.inTaken < Config.posLimit

/-- The buffers are in canonical form. -/
def MemoryOk (s : State) : Prop :=
  Memory.wf s.hbuf ∧ Memory.wf s.gbuf ∧ Memory.wf s.pbuf ∧ Memory.wf s.dhist

/-- An idle BFC has no beat to deliver (R225, R41), VID.HDR never has one (R205), and an end marker is the last beat of its
message (R71). -/
def QuietOk (s : State) : Prop :=
  (s.status.busy = false → s.outPend = []) ∧ (s.cfg.op = .vidHdr → s.outPend = []) ∧ Beat.fin ∉ s.outPend.dropLast

/-- The invariant of BFC. -/
structure Inv (s : State) : Prop where
  status : StatusOk s.status
  rlu : RluOk s.rlu
  lzc : LzcOk s.lzc
  lzd : LzdOk s.lzd
  containers : ContainersOk s
  rld : RldOk s.rld
  buffers : BuffersOk s
  staging : StagingOk s
  memory : MemoryOk s
  quiet : QuietOk s
  stream : StreamOk s

/-! ### Terms of the statements -/

/-- The state in which BFC moves when it is BFC's turn in a step (log 2): nothing is planned, or the host lets BFC make a
move first. -/
def BfcTurn (s s0 : State) : Prop :=
  (s.script = [] ∧ s0 = s) ∨
    ∃ n a rest, s.script = ⟨n + 1, a⟩ :: rest ∧ s0 = { s with script := ⟨n, a⟩ :: rest }

/-- BFC is busy and no beat waits on OUT: its next move is one of the running operation. -/
def Running (op : Op) (s : State) : Prop := s.status.busy = true ∧ s.outPend = [] ∧ s.cfg.op = op

/-- The units an operation uses (10_state.md R42). -/
def Op.usesRlu : Op → Bool
  | .rleEnc | .imgEnc | .vidEnc => true
  | .none | .lzComp | .rleDec | .lzDecomp | .imgDec | .vidHdr | .vidFrame => false

/-- LZC, HBUF and GBUF (R42). -/
def Op.usesLzc : Op → Bool
  | .lzComp | .imgEnc | .vidEnc => true
  | .none | .rleEnc | .rleDec | .lzDecomp | .imgDec | .vidHdr | .vidFrame => false

/-- FRA (R42). -/
def Op.usesFra : Op → Bool
  | .imgEnc | .vidEnc => true
  | .none | .rleEnc | .lzComp | .rleDec | .lzDecomp | .imgDec | .vidHdr | .vidFrame => false

/-- PBUF (R42). -/
def Op.usesPbuf : Op → Bool
  | .vidEnc | .vidFrame => true
  | .none | .rleEnc | .lzComp | .imgEnc | .rleDec | .lzDecomp | .imgDec | .vidHdr => false

/-- FPR (R42). -/
def Op.usesFpr : Op → Bool
  | .imgDec | .vidHdr | .vidFrame => true
  | .none | .rleEnc | .lzComp | .imgEnc | .vidEnc | .rleDec | .lzDecomp => false

/-- LZD and DHIST (R42). -/
def Op.usesLzd : Op → Bool
  | .lzDecomp | .imgDec | .vidFrame => true
  | .none | .rleEnc | .lzComp | .imgEnc | .vidEnc | .rleDec | .vidHdr => false

/-- RLD (R42). -/
def Op.usesRld : Op → Bool
  | .rleDec | .imgDec | .vidFrame => true
  | .none | .rleEnc | .lzComp | .imgEnc | .vidEnc | .lzDecomp | .vidHdr => false

/-- What every accepted START does (45 R224, R29): the fields of the word stored, the snapshot taken, `STATUS` cleared but
for `BUSY`. -/
def started (op : Op) (code : BitVec 4) (f : CmdFields) (s : State) : State :=
  { s with
    ctrl := { op := code, pixfmt := f.pixfmt, thrIncl := f.thrIncl, thresh := f.thresh }
    cfg :=
      { op := op, pixfmt := f.pixfmt, thrIncl := f.thrIncl, thresh := f.thresh, width := s.width, height := s.height,
        rate := s.frameRate, count := s.frameCount, total := s.totalHi ++ s.totalLo }
    status := { busy := true, done := false, err := false, errcode := 0, geom0 := false } }

/-- The working registers after an accepted START of `op` (R224, R30 to R36, R42): those of the units it uses hold their
start values, with the phases and the total that its rule sets at START; the others, and the buffers of the units it does
not use, are as they were. -/
def UnitsStarted (op : Op) (s t : State) : Prop :=
  t.rlu = (if op.usesRlu then { started := false, cur := 0, cnt := 0 } else s.rlu) ∧
    t.lzc =
      (if op.usesLzc then
        { nIn := 0, eoi := false, i := 0, j := 0, len := 0, bestLen := 0, bestOff := 0, t := 0, flag := 0, glen := 0 }
      else s.lzc) ∧
    t.fra = (if op.usesFra then { phase := .hdr, hcnt := 0, plen := 0, pout := 0 } else s.fra) ∧
    t.fpr =
      (if op.usesFpr then
        { phase := if op = .vidFrame then .len else .hdr, hcnt := 0, stage := [], need := 0, got := 0 }
      else s.fpr) ∧
    t.lzd =
      (if op.usesLzd then
        { p := 0, outLen := 0, flags := 0, t := 0, phase := .flag, off := 0, len := 0, k := 0, start := 0, tok := [] }
      else s.lzd) ∧
    t.rld =
      (if op.usesRld then
        { first := true, cur := 0, produced := 0, total := if op = .rleDec then s.totalHi ++ s.totalLo else 0, cnt := 0,
          val := 0, ending := false }
      else s.rld) ∧
    t.fidx = (if op = .vidEnc then 0 else s.fidx) ∧
    (op.usesLzc = false → t.hbuf = s.hbuf ∧ t.gbuf = s.gbuf) ∧ (op.usesPbuf = false → t.pbuf = s.pbuf) ∧
    (op.usesLzd = false → t.dhist = s.dhist)

/-- The bytes a back-reference copies, in closed form (42_window_decompressor.md R176, R177, R182): all of them, byte `k`
being byte `k mod off` of the last `off` bytes of the output, or none. -/
def refCopy (off len : Nat) (out : List Byte) : List Byte :=
  if 1 ≤ off ∧ off ≤ out.length then (List.range len).map (fun k => out.getD (out.length - off + k % off) 0) else []

/-- The effect of a back-reference on the output so far (R175 to R177, R180): the copied bytes stand in DHIST after those
there were and are passed on, to OUT or through RLD; the token counts as done; nothing but LZD, DHIST, RLD and OUT
changes. -/
def ReferenceDone (off len : Nat) (out : List Byte) (s t : State) : Prop :=
  t = { s with dhist := t.dhist, lzd := t.lzd, rld := t.rld, outPend := t.outPend } ∧
    (∀ a, Memory.read t.dhist a =
      if a < out.length then Memory.read s.dhist a else (refCopy off len out)[a - out.length]?) ∧
    t.lzd.outLen = out.length + (refCopy off len out).length ∧ t.lzd.p = s.lzd.p ∧ t.lzd.flags = s.lzd.flags ∧
    t.lzd.t = s.lzd.t + 1 ∧ t.lzd.phase = (if s.lzd.t + 1 = 8 then .flag else .token) ∧
    (s.cfg.op.lzdFeedsRld = false →
      t.rld = s.rld ∧ t.outPend = s.outPend ++ (refCopy off len out).map Beat.data) ∧
    (s.cfg.op.lzdFeedsRld = true →
      t.rld = (rldBytes (refCopy off len out) s.rld).1 ∧
        t.outPend = s.outPend ++ ((rldBytes (refCopy off len out) s.rld).2).map Beat.data)

/-- The six host registers that a host can write while BFC is busy (20_memory.md R68), all at once. -/
def withHostRegs (s : State) (w h rate count lo hi : Word) : State :=
  { s with width := w, height := h, frameRate := rate, frameCount := count, totalLo := lo, totalHi := hi }

/-! ### Runs -/

/-- The host has nothing planned and accepts every beat: BFC runs on the beats that stand on IN (R275's fair host). -/
def HostServes (s : State) : Prop := s.script = [] ∧ s.outReady = true

/-- BFC is idle: no operation runs and no beat waits on OUT. -/
def Idle (s : State) : Prop := s.status.busy = false ∧ s.outPend = []

/-- A message of bytes on a stream (00_scope.md glossary): its data beats, then the end marker. -/
def message (bs : List Byte) : List Beat := bs.map Beat.data ++ [.fin]

/-- From `s` the machine comes, in some number of steps, to a state with `P`. -/
def Reaches (s : State) (P : State → Prop) : Prop := ∃ k t, Host.Core.run Sys2Proof.core k s = .next t ∧ P t

/-- The operation has ended with `DONE` (R13): `STATUS` as given, nothing waits on OUT, the host has received `out` after
what it had, and the input stream stands at `rest`. -/
def EndedDone (s : State) (geom0 : Bool) (out : List Beat) (rest : List Beat) (t : State) : Prop :=
  t.status = { busy := false, done := true, err := false, errcode := 0, geom0 := geom0 } ∧ t.outPend = [] ∧
    t.received = s.received ++ out ∧ t.inq = rest

end Sys2Proof.Machine
end

