-- ==== Sys2Proof/Certificates/Slice0/Obligations.lean ====
section
/-! DEFINITION. The statements for the provers, one `Prop` each. -/

open Sys2Proof Sys2Proof.Machine

/-! ### Encodings -/

/-- Decoding what the encoder writes gives the instruction back, with every operand at every value its encoding
admits, and leaves the bytes after it (30_encoding.md R81, R82, R86 to R92, R97 to R99, R101, R104). -/
def Obligations.DecodeOfEncode : Prop :=
  ∀ (i : Instr) (rest : List Byte), i.wf = true → decode i.ctx (encode i ++ rest) = .ok (i, rest)

/-- Each word has one meaning: what the decoder reads is well-formed, belongs to the place it was read at, and is
encoded by the bytes it was read from, ignored bits included (30_encoding.md R101, R103). -/
def Obligations.EncodeOfDecode : Prop :=
  ∀ (ctx : Ctx) (bs : List Byte) (i : Instr) (rest : List Byte),
    decode ctx bs = .ok (i, rest) → encode i ++ rest = bs ∧ i.wf = true ∧ i.ctx = ctx

/-- Words of the opcode table, of every format and every kind of token (30_encoding.md R81, R82, R86 to R88, R97 to
R99, R104), written out as numbers. Which row a one-byte word is, and that a 32-bit word without bit 31 is REF.22
where it has that row's fixed bits and else FRAMELEN, is the model's choice (log 13); that the first byte of a word of
several bytes is its most significant one is the model's reading of the table (log 14). -/
def Obligations.TableWordsDecode : Prop :=
  decodeTableWord 32 0x80008031 =
      some (.rleEnc { pixfmt := true, thrIncl := true, thresh := 0x80, rsvLow := 0, rsvHigh := 0 }) ∧
    decodeTableWord 32 0x80000009 =
      some (.vidFrame { pixfmt := false, thrIncl := false, thresh := 0, rsvLow := 0, rsvHigh := 0 }) ∧
    decodeTableWord 8 0x01 = some (.start 0x01) ∧
    decodeTableWord 8 0x31 = some (.run 3 1) ∧
    decodeTableWord 8 0xF4 = some (.flag 0xF4) ∧
    decodeTableWord 8 0x62 = some (.lit 0x62) ∧
    decodeTableWord 16 0x020E = some (.ref11 2 14) ∧
    decodeTableWord 24 0x02101C = some (.ref12 2 0 28) ∧
    decodeTableWord 24 0x41000F = some (.ref21 0 256 15) ∧
    decodeTableWord 32 0x600010FF = some (.ref22 0 8192 0 255) ∧
    decodeTableWord 64 0x0000000400000005 = some (.imgHeader 4 5) ∧
    decodeTableWord 96 0x000200030000000A00000007 = some (.vidHeader 2 3 10 7) ∧
    decodeTableWord 32 0x00000005 = some (.frameLen 5)

/-- The four shapes of a back-reference, field by field, for every byte (30_encoding.md R101): the key bits 6 and 4
decide the shape, the other bits the values; a two-byte offset ignores bit 7, a two-byte length bits 7 to 5. And what
the field packer of 41_window_compressor.md R146, R147 writes, in the forms of R89 to R92, gives back the value that
was packed, for every offset of 14 bits and every length of 12 bits, those the compressor never emits (R94) among
them. -/
def Obligations.ReferenceFieldAssembly : Prop :=
  (∀ (b0 b1 c0 c1 : Byte) (rest : List Byte),
    (b0.getLsbD 6 = false → c0.getLsbD 4 = false →
      ∃ i, decode .reference (b0 :: c0 :: rest) = .ok (i, rest) ∧
        (refOffset i).toNat = b0.toNat ∧ (refLength i).toNat = c0.toNat) ∧
    (b0.getLsbD 6 = false → c0.getLsbD 4 = true →
      ∃ i, decode .reference (b0 :: c0 :: c1 :: rest) = .ok (i, rest) ∧
        (refOffset i).toNat = b0.toNat ∧ (refLength i).toNat = c0.toNat % 16 * 256 + c1.toNat) ∧
    (b0.getLsbD 6 = true → c0.getLsbD 4 = false →
      ∃ i, decode .reference (b0 :: b1 :: c0 :: rest) = .ok (i, rest) ∧
        (refOffset i).toNat = b0.toNat % 64 * 256 + b1.toNat ∧ (refLength i).toNat = c0.toNat) ∧
    (b0.getLsbD 6 = true → c0.getLsbD 4 = true →
      ∃ i, decode .reference (b0 :: b1 :: c0 :: c1 :: rest) = .ok (i, rest) ∧
        (refOffset i).toNat = b0.toNat % 64 * 256 + b1.toNat ∧
        (refLength i).toNat = c0.toNat % 16 * 256 + c1.toNat)) ∧
  ∀ (off len : Nat) (rest : List Byte), off < 2 ^ 14 → len < 2 ^ 12 →
    ∃ i, decode .reference (packOff off ++ packLen len ++ rest) = .ok (i, rest) ∧
      (refOffset i).toNat = off ∧ (refLength i).toNat = len

/-- The bytes of the packed fields as numbers (41_window_compressor.md R146, R147). -/
def Obligations.PackedFieldBytes : Prop :=
  (∀ off : Nat, off < 64 → packOff off = [BitVec.ofNat 8 off]) ∧
    (∀ off : Nat, 64 ≤ off → packOff off = [BitVec.ofNat 8 (64 + off / 256 % 64), BitVec.ofNat 8 (off % 256)]) ∧
    (∀ len : Nat, len < 16 → packLen len = [BitVec.ofNat 8 len]) ∧
    ∀ len : Nat, 16 ≤ len → packLen len = [BitVec.ofNat 8 (16 + len / 256 % 16), BitVec.ofNat 8 (len % 256)]

/-- Big-endian fields as numbers (20_memory.md R53). -/
def Obligations.BigEndianFields : Prop :=
  (∀ v : BitVec 16, be16 v = [BitVec.ofNat 8 (v.toNat / 256), BitVec.ofNat 8 (v.toNat % 256)]) ∧
    (∀ v : BitVec 32,
      be32 v =
        [BitVec.ofNat 8 (v.toNat / 2 ^ 24), BitVec.ofNat 8 (v.toNat / 2 ^ 16 % 256),
          BitVec.ofNat 8 (v.toNat / 2 ^ 8 % 256), BitVec.ofNat 8 (v.toNat % 256)]) ∧
    (∀ a b : Byte, (unbe16 a b).toNat = a.toNat * 256 + b.toNat) ∧
    ∀ a b c d : Byte, (unbe32 a b c d).toNat = a.toNat * 2 ^ 24 + b.toNat * 2 ^ 16 + c.toNat * 2 ^ 8 + d.toNat

/-! ### Commands -/

/-- Each of the nine commands, given to an idle BFC, answers exactly this next state: the common part of START (45
R224, R29), the units it uses at their start values with what its rule sets at START (10_state.md R30 to R36, R42),
and nothing else changed. Given to a busy BFC, every command word changes nothing (20_memory.md R68). That the buffers
of those units and `fpr.stage` hold nothing (log 6), the start values of the model's own fields `lzd.tok`,
`rld.ending` and `fra.pout` (log 11), and that VID.HDR starts FPR in phase HDR and VID.FRAME in phase LEN (log 23),
are the model's. -/
def Obligations.CommandsStart : Prop :=
  (∀ (f : CmdFields) (s : State), s.status.busy = false →
    exec (.rleEnc f) s = .next { started .rleEnc 1 f s with rlu := Rlu.init } ∧
    exec (.lzComp f) s = .next { started .lzComp 2 f s with lzc := Lzc.init, hbuf := [], gbuf := [] } ∧
    exec (.imgEnc f) s =
      .next
        { started .imgEnc 3 f s with
          rlu := Rlu.init, lzc := Lzc.init, hbuf := [], gbuf := [], fra := { Fra.init with phase := .hdr } } ∧
    exec (.vidEnc f) s =
      .next
        { started .vidEnc 4 f s with
          rlu := Rlu.init, lzc := Lzc.init, hbuf := [], gbuf := [], pbuf := [], fidx := 0
          fra := { Fra.init with phase := .hdr } } ∧
    exec (.rleDec f) s =
      .next { started .rleDec 5 f s with rld := { Rld.init with total := s.totalHi ++ s.totalLo } } ∧
    exec (.lzDecomp f) s = .next { started .lzDecomp 6 f s with lzd := Lzd.init, dhist := [] } ∧
    exec (.imgDec f) s =
      .next
        { started .imgDec 7 f s with
          fpr := { Fpr.init with phase := .hdr }, lzd := Lzd.init, dhist := [], rld := Rld.init } ∧
    exec (.vidHdr f) s = .next { started .vidHdr 8 f s with fpr := { Fpr.init with phase := .hdr } } ∧
    exec (.vidFrame f) s =
      .next
        { started .vidFrame 9 f s with
          fpr := { Fpr.init with phase := .len }, pbuf := [], lzd := Lzd.init, dhist := [], rld := Rld.init }) ∧
  ∀ (i : Instr) (s : State), i.ctx = .command → s.status.busy = true → exec i s = .next s

/-- A write of `CTRL` with bit 31 = 1 (45_binarize_and_control.md R224): with `BUSY` = 1 it is ignored in full; else
with a reserved code it stores the fields and starts nothing; else it stores the fields, takes the snapshot from them
and from the registers as they stand, clears `STATUS` but for `BUSY`, and puts the working registers of the units the
operation uses at their start values. That `fpr.stage` holds nothing (log 6), the start values of the model's own
fields (log 11) and FPR's phases at the START of VID.HDR and VID.FRAME (log 23) are the model's. -/
def Obligations.CtrlWriteWithStart : Prop :=
  ∀ (v : Word) (s : State), v.getLsbD 31 = true →
    (s.status.busy = true → writeCtrl v s = .next s) ∧
    (s.status.busy = false → v.toNat % 16 = 0 ∨ 10 ≤ v.toNat % 16 →
      writeCtrl v s =
        .next
          { s with
            ctrl :=
              { op := v.extractLsb' 0 4, pixfmt := v.getLsbD 4, thrIncl := v.getLsbD 5, thresh := v.extractLsb' 8 8 } }) ∧
    (s.status.busy = false → 1 ≤ v.toNat % 16 → v.toNat % 16 ≤ 9 →
      ∃ op t, op.code = v.extractLsb' 0 4 ∧ op ≠ .none ∧ writeCtrl v s = .next t ∧
        t.ctrl =
          { op := v.extractLsb' 0 4, pixfmt := v.getLsbD 4, thrIncl := v.getLsbD 5, thresh := v.extractLsb' 8 8 } ∧
        t.cfg =
          { op := op, pixfmt := v.getLsbD 4, thrIncl := v.getLsbD 5, thresh := v.extractLsb' 8 8, width := s.width,
            height := s.height, rate := s.frameRate, count := s.frameCount, total := s.totalHi ++ s.totalLo } ∧
        t.status = { busy := true, done := false, err := false, errcode := 0, geom0 := false } ∧ UnitsStarted op s t ∧
        t =
          { s with
            ctrl := t.ctrl, cfg := t.cfg, status := t.status, fidx := t.fidx, rlu := t.rlu, lzc := t.lzc, fra := t.fra
            fpr := t.fpr, lzd := t.lzd, rld := t.rld, hbuf := t.hbuf, gbuf := t.gbuf, pbuf := t.pbuf, dhist := t.dhist })

/-- The seven reserved codes (30_encoding.md R105): each answers a next state in which the fields are stored and
nothing else has changed, `STATUS` included; and a write of `CTRL` with `START` = 1 and such a code does just that. -/
def Obligations.ReservedCodesStoreFields : Prop :=
  (∀ (v : Word) (s : State), s.status.busy = false → v.getLsbD 31 = true → v.toNat % 16 = 0 ∨ 10 ≤ v.toNat % 16 →
    writeCtrl v s =
      .next
        { s with
          ctrl :=
            { op := v.extractLsb' 0 4, pixfmt := v.getLsbD 4, thrIncl := v.getLsbD 5, thresh := v.extractLsb' 8 8 } }) ∧
  ∀ (f : CmdFields) (s : State), s.status.busy = false →
    exec (.reservedOp0 f) s =
      .next { s with ctrl := { op := 0, pixfmt := f.pixfmt, thrIncl := f.thrIncl, thresh := f.thresh } } ∧
    exec (.reservedOp10 f) s =
      .next { s with ctrl := { op := 10, pixfmt := f.pixfmt, thrIncl := f.thrIncl, thresh := f.thresh } } ∧
    exec (.reservedOp11 f) s =
      .next { s with ctrl := { op := 11, pixfmt := f.pixfmt, thrIncl := f.thrIncl, thresh := f.thresh } } ∧
    exec (.reservedOp12 f) s =
      .next { s with ctrl := { op := 12, pixfmt := f.pixfmt, thrIncl := f.thrIncl, thresh := f.thresh } } ∧
    exec (.reservedOp13 f) s =
      .next { s with ctrl := { op := 13, pixfmt := f.pixfmt, thrIncl := f.thrIncl, thresh := f.thresh } } ∧
    exec (.reservedOp14 f) s =
      .next { s with ctrl := { op := 14, pixfmt := f.pixfmt, thrIncl := f.thrIncl, thresh := f.thresh } } ∧
    exec (.reservedOp15 f) s =
      .next { s with ctrl := { op := 15, pixfmt := f.pixfmt, thrIncl := f.thrIncl, thresh := f.thresh } }

/-! ### Tokens of the RunStream -/

/-- START and RUN complete in every state (40_run_length.md R128, R102): START is taken whole as the value to pad with
and puts nothing out; RUN puts out its value as often as its count says, but no more than are missing to `total`, and
its value becomes the one to pad with. Nothing else changes. -/
def Obligations.RunStreamTokensComplete : Prop :=
  (∀ (v : BitVec 8) (s : State), exec (.start v) s = .next { s with rld := { s.rld with first := false, cur := v } }) ∧
    ∀ (count value : BitVec 4) (s : State),
      exec (.run count value) s =
        .next
          { s with
            rld :=
              { s.rld with
                cnt := count, val := value, cur := value.setWidth 8
                produced := s.rld.produced + min count.toNat (s.rld.total.toNat - s.rld.produced) }
            outPend :=
              s.outPend ++
                List.replicate (min count.toNat (s.rld.total.toNat - s.rld.produced)) (Beat.data (value.setWidth 8)) }

/-! ### Tokens of the CompressedBlock -/

/-- FLAG completes in every state (42_window_decompressor.md R180): the flag bits of the next group are taken. -/
def Obligations.FlagCompletes : Prop :=
  ∀ (f : BitVec 8) (s : State),
    exec (.flag f) s = .next { s with lzd := { s.lzd with flags := f, t := 0, phase := .token } }

/-- LIT completes where the 64-bit count of output bytes has room (42_window_decompressor.md R172, R180): the byte
stands at the next position of DHIST and no other position changes, the token counts as done, and the byte is passed
on: to OUT, or in the containers to RLD, which takes it as START or expands it as RUN. The room is the admitted
inputs' (00_scope.md R16); `tok` is the model's own field (log 11). -/
def Obligations.LiteralCompletes : Prop :=
  ∀ (b : BitVec 8) (s : State), s.lzd.outLen + 1 < 2 ^ 64 →
    ∃ m l r o, exec (.lit b) s = .next { s with dhist := m, lzd := l, rld := r, outPend := o } ∧
      (∀ a, Memory.read m a = if a = s.lzd.outLen then some b else Memory.read s.dhist a) ∧
      l = { s.lzd with
            outLen := s.lzd.outLen + 1, t := s.lzd.t + 1, phase := if s.lzd.t + 1 = 8 then .flag else .token, tok := [] } ∧
      (s.cfg.op.lzdFeedsRld = false → r = s.rld ∧ o = s.outPend ++ [.data b]) ∧
      (s.cfg.op.lzdFeedsRld = true → s.rld.first = true →
        r = { s.rld with first := false, cur := b } ∧ o = s.outPend) ∧
      (s.cfg.op.lzdFeedsRld = true → s.rld.first = false →
        r = { s.rld with
              cnt := b.extractLsb' 4 4, val := b.extractLsb' 0 4, cur := (b.extractLsb' 0 4).setWidth 8
              produced := s.rld.produced + min (b.toNat / 16) (s.rld.total.toNat - s.rld.produced) } ∧
        o = s.outPend ++
          List.replicate (min (b.toNat / 16) (s.rld.total.toNat - s.rld.produced))
            (Beat.data ((b.extractLsb' 0 4).setWidth 8)))

/-- The four shapes of a back-reference complete where DHIST holds the output so far and the 64-bit count has room,
each with the effect of a copy of its length from its offset (42_window_decompressor.md R175 to R177, R180, R182): all
the bytes in closed form, an overlapping copy repeating its pattern, or none when the offset is 0 or beyond the
output. The ignored bits have no effect. -/
def Obligations.ReferencesComplete : Prop :=
  ∀ (s : State) (out : List Byte), s.dhist = Memory.ofBytes out → s.lzd.outLen = out.length →
    (∀ off len : BitVec 8, out.length + len.toNat < 2 ^ 64 →
      ∃ t, exec (.ref11 off len) s = .next t ∧ ReferenceDone off.toNat len.toNat out s t) ∧
    (∀ (off : BitVec 8) (pad : BitVec 3) (len : BitVec 12), out.length + len.toNat < 2 ^ 64 →
      ∃ t, exec (.ref12 off pad len) s = .next t ∧ ReferenceDone off.toNat len.toNat out s t) ∧
    (∀ (pad : BitVec 1) (off : BitVec 14) (len : BitVec 8), out.length + len.toNat < 2 ^ 64 →
      ∃ t, exec (.ref21 pad off len) s = .next t ∧ ReferenceDone off.toNat len.toNat out s t) ∧
    ∀ (pad : BitVec 1) (off : BitVec 14) (lenPad : BitVec 3) (len : BitVec 12), out.length + len.toNat < 2 ^ 64 →
      ∃ t, exec (.ref22 pad off lenPad len) s = .next t ∧ ReferenceDone off.toNat len.toNat out s t

/-! ### Items of the containers -/

/-- IMGHDR, VIDHDR and FRAMELEN complete in every state with exactly these next states (43 R192, R195, 44 R205, R206,
60 R233). VIDHDR ends its operation, so it writes `GEOM0` (10_state.md R39); that IMGHDR leaves `GEOM0` to the end of
IMG.DEC is the model's reading of R39 beside R192 (log 21). FPR's phase IDLE after VIDHDR and PAYLOAD after FRAMELEN
are the model's (log 23). -/
def Obligations.ContainerItemsComplete : Prop :=
  (∀ (w h : BitVec 32) (s : State),
      exec (.imgHeader w h) s =
        .next
          { s with
            width := w, height := h
            rld := { s.rld with total := BitVec.ofNat 64 (w.toNat * h.toNat) }
            fpr := { s.fpr with phase := .decode } }) ∧
    (∀ (w h : BitVec 16) (rate count : BitVec 32) (s : State),
      exec (.vidHeader w h rate count) s =
        .next
          { s with
            width := w.setWidth 32, height := h.setWidth 32, frameRate := rate, frameCount := count, fidx := 0
            status := { s.status with busy := false, done := true, geom0 := s.status.geom0 || w == 0 || h == 0 }
            fpr := { s.fpr with phase := .idle } }) ∧
    ∀ (n : BitVec 32) (s : State), exec (.frameLen n) s = .next { s with fpr := { s.fpr with need := n, phase := .payload } }

/-- The total of a decode is the exact product of the geometry, in 64 bits for every two 32-bit factors, and below
2^32 for 16-bit ones (43_single_image.md R195). -/
def Obligations.TotalIsExactProduct : Prop :=
  (∀ w h : Word, (totalBits w h).toNat = w.toNat * h.toNat) ∧
    ∀ w h : BitVec 16, (totalBits (w.setWidth 32) (h.setWidth 32)).toNat = w.toNat * h.toNat ∧ w.toNat * h.toNat < 2 ^ 32

/-! ### A step runs the decoded instruction -/

/-- A step whose act is the host's write of `CTRL` runs the command that the word decodes to (45 R224). The
script's form is the model's (log 2). -/
def Obligations.StepRunsCommand : Prop :=
  ∀ (s : State) (v : Word) (i : Instr) (rest : List HostMove),
    s.script = ⟨0, .write 0 v⟩ :: rest → decode .command (be32 v) = .ok (i, []) →
      step s = exec i { s with script := rest, regAddr := 0 }

/-- A step of a running decode operation runs the instruction that stands at its position (40 R128, 42 R180, 43 R192,
44 R205, R206): a RunStream byte; a FLAG or a literal, from the input or in VID.FRAME from PBUF, with `lzd.p` counting
it; a back-reference, a header or a length field that is whole. A beat taken counts as one of its message, which is an
admitted one (00_scope.md R16). `lzd.tok`, `rld.ending` and `inTaken` are the model's own (log 11). -/
def Obligations.StepRunsDecoded : Prop :=
  ∀ (s s0 : State), BfcTurn s s0 →
    (∀ (b : Byte) (rest : List Beat) (i : Instr), Running .rleDec s0 → s0.rld.ending = false → s0.inq = .data b :: rest →
      s0.inTaken + 1 < 2 ^ 64 → decode (if s0.rld.first then .runStart else .runRecord) [b] = .ok (i, []) →
      step s = exec i { s0 with inq := rest, inTaken := s0.inTaken + 1 }) ∧
    (∀ (b : Byte) (rest : List Beat) (i : Instr),
      Running .lzDecomp s0 ∨ (Running .imgDec s0 ∧ s0.rld.ending = false ∧ s0.fpr.phase = .decode) →
      s0.inq = .data b :: rest → s0.inTaken + 1 < 2 ^ 64 → s0.lzd.p + 1 < 2 ^ 64 →
      (s0.lzd.phase = .flag ∧ decode .flag [b] = .ok (i, [])) ∨
        (s0.lzd.phase = .token ∧ s0.lzd.flags.getLsbD s0.lzd.t = false ∧ decode .literal [b] = .ok (i, [])) →
      step s =
        exec i
          { s0 with inq := rest, inTaken := s0.inTaken + 1, lzd := { s0.lzd with p := s0.lzd.p + 1 } }) ∧
    (∀ (b : Byte) (i : Instr),
      Running .vidFrame s0 → s0.rld.ending = false → s0.fpr.phase = .decode → s0.lzd.p < s0.fpr.need.toNat →
      Memory.read s0.pbuf s0.lzd.p = some b →
      (s0.lzd.phase = .flag ∧ decode .flag [b] = .ok (i, [])) ∨
        (s0.lzd.phase = .token ∧ s0.lzd.flags.getLsbD s0.lzd.t = false ∧ decode .literal [b] = .ok (i, [])) →
      step s = exec i { s0 with lzd := { s0.lzd with p := s0.lzd.p + 1 } }) ∧
    (∀ (i : Instr),
      Running .lzDecomp s0 ∨
        ((Running .imgDec s0 ∨ Running .vidFrame s0) ∧ s0.rld.ending = false ∧ s0.fpr.phase = .decode) →
      s0.lzd.phase = .copy → decode .reference s0.lzd.tok = .ok (i, []) → step s = exec i s0) ∧
    (∀ (i : Instr), Running .imgDec s0 → s0.rld.ending = false → s0.fpr.phase = .hdr → s0.fpr.hcnt = 8 →
      decode .imgHeader s0.fpr.stage = .ok (i, []) → step s = exec i s0) ∧
    (∀ (i : Instr), Running .vidHdr s0 → s0.fpr.phase = .hdr → s0.fpr.hcnt = 12 →
      decode .vidHeader s0.fpr.stage = .ok (i, []) → step s = exec i s0) ∧
    ∀ (i : Instr), Running .vidFrame s0 → s0.rld.ending = false → s0.fpr.phase = .len → s0.fpr.hcnt = 4 →
      decode .frameLen s0.fpr.stage = .ok (i, []) → step s = exec i s0

/-! ### Exceptions -/

/-- Taking an exception (60_exceptions.md R236), at each place where an operation takes one (R231, R232): an `End`
beat before the header, the length field or the payload is complete. The beat is taken and ends its message (`inTaken`
is the model's own count of the message, log 11), `STATUS` becomes exactly `ERR` with the code, and nothing else
changes; the pin `err` is 1, and both streams are quiet; the working registers stay as they are and the next START, of
any operation, puts those it uses at their start values. The start values of the model's own fields (log 11), an empty
`fpr.stage` (log 6) and FPR's phases at the START of VID.HDR and VID.FRAME (log 23) are the model's. -/
def Obligations.EndRaisesExactly : Prop :=
  ∀ (s s0 : State) (rest : List Beat), BfcTurn s s0 → Inv s0 → s0.inq = .fin :: rest →
    (∀ c : BitVec 4,
      (Running .imgDec s0 ∧ s0.fpr.phase = .hdr ∧ s0.fpr.hcnt < 8 ∧ c = 1) ∨
        (Running .vidHdr s0 ∧ s0.fpr.phase = .hdr ∧ s0.fpr.hcnt < 12 ∧ c = 1) ∨
        (Running .vidFrame s0 ∧ s0.fpr.phase = .len ∧ s0.fpr.hcnt < 4 ∧ c = 2) ∨
        (Running .vidFrame s0 ∧ s0.fpr.phase = .payload ∧ s0.fpr.got < s0.fpr.need.toNat ∧ c = 2) →
      ∃ t, step s = .next t ∧
        t =
          { s0 with
            inq := rest, inTaken := 0
            status := { busy := false, done := false, err := true, errcode := c, geom0 := false } } ∧
        pinErr t = true ∧ inReady t = false ∧ outValid t = false ∧
        ∀ v : Word, v.getLsbD 31 = true → 1 ≤ v.toNat % 16 → v.toNat % 16 ≤ 9 →
          ∃ op u, op.code = v.extractLsb' 0 4 ∧ op ≠ .none ∧ writeCtrl v t = .next u ∧ UnitsStarted op t u)

/-- Only FPR raises, and only on a short header or a short FrameRecord (60_exceptions.md R230 to R232, R234, R235,
R239): whenever a step sets `ERR`, the operation was IMG.DEC or VID.HDR in its header, or VID.FRAME in its length
field or its payload, an `End` beat stood on IN, and the code is the operation's. -/
def Obligations.OnlyTheParserRaises : Prop :=
  ∀ s t : State, Inv s → step s = .next t → s.status.err = false → t.status.err = true →
    s.status.busy = true ∧ s.outPend = [] ∧ (∃ rest, s.inq = .fin :: rest) ∧
      ((s.cfg.op = .imgDec ∧ s.fpr.phase = .hdr ∧ s.fpr.hcnt < 8 ∧ t.status.errcode = 1) ∨
        (s.cfg.op = .vidHdr ∧ s.fpr.phase = .hdr ∧ s.fpr.hcnt < 12 ∧ t.status.errcode = 1) ∨
        (s.cfg.op = .vidFrame ∧ s.fpr.phase = .len ∧ s.fpr.hcnt < 4 ∧ t.status.errcode = 2) ∨
        (s.cfg.op = .vidFrame ∧ s.fpr.phase = .payload ∧ s.fpr.got < s.fpr.need.toNat ∧ t.status.errcode = 2))

/-- There is no return from an exception (60_exceptions.md R240; 10_state.md R23): what `STATUS` records at the end of
an operation stays until the host starts an operation, which leaves exactly `BUSY`, or resets BFC, which clears it. -/
def Obligations.StatusStaysUntilStart : Prop :=
  ∀ s t : State, Inv s → s.status.busy = false → step s = .next t →
    t.status = s.status ∨
      (∃ n v rest, s.script = ⟨n, .write 0 v⟩ :: rest ∧ v.getLsbD 31 = true ∧ 1 ≤ v.toNat % 16 ∧ v.toNat % 16 ≤ 9 ∧
        t.status = { busy := true, done := false, err := false, errcode := 0, geom0 := false }) ∨
      (∃ n rest, s.script = ⟨n, .reset⟩ :: rest ∧
        t.status = { busy := false, done := false, err := false, errcode := 0, geom0 := false })

/-- After the first START one of `BUSY`, `DONE`, `ERR` is always set (10_state.md R23): a step from a state with one
of them leads to a state with one of them, unless the host's act is a reset. -/
def Obligations.OneStatusBitAfterStart : Prop :=
  ∀ s t : State, step s = .next t → (∀ n rest, s.script ≠ ⟨n, .reset⟩ :: rest) →
    s.status.busy = true ∨ s.status.done = true ∨ s.status.err = true →
      t.status.busy = true ∨ t.status.done = true ∨ t.status.err = true

/-! ### The end of an operation -/

/-- Normal end (45 R225, 00 R13): whenever BFC sets `DONE`, either VID.HDR has taken its header, with nothing put out,
or the host has just accepted the end marker, which was the last beat on OUT; `BUSY` is cleared at the same edge, and
no beat waits on OUT. `GEOM0` is written at that edge and not before (10_state.md R39; log 21): by IMG.DEC and
VID.FRAME it is set when their total is 0 (60 R233), and by VID.HDR when a geometry register it has written is 0. -/
def Obligations.DoneMeansDelivered : Prop :=
  ∀ s t : State, Inv s → step s = .next t → s.status.done = false → t.status.done = true →
    s.status.busy = true ∧ t.status.busy = false ∧ t.status.err = false ∧ t.outPend = [] ∧ inReady t = false ∧
      s.status.geom0 = false ∧
      ((s.cfg.op = .vidHdr ∧ s.outPend = [] ∧ t.received = s.received ∧ t.status.geom0 = (t.width == 0 || t.height == 0)) ∨
        (s.outPend = [.fin] ∧ s.outReady = true ∧ t.received = s.received ++ [.fin] ∧
          (t.status.geom0 = true ↔ (s.cfg.op = .imgDec ∨ s.cfg.op = .vidFrame) ∧ s.rld.total = 0)))

/-- The host's stream of results (20_memory.md R65, R71, R74; log 3, log 8): the beat on the port goes to the host
when it is ready, and stays when it is not, BFC having no move of its own meanwhile. A data beat shows its byte; the
end marker shows `out_end` = 1 with `out_data` = 0, and its acceptance ends the operation, with the effects of 45 R225
(`GEOM0` by log 21, `FRAME_IDX` by log 19). -/
def Obligations.OutputInOrder : Prop :=
  ∀ (s s0 : State) (b : Beat) (rest : List Beat), BfcTurn s s0 → s0.outPend = b :: rest →
    outValid s0 = true ∧
    (∀ v, b = .data v → outData s0 = v ∧ outEndPin s0 = false) ∧
    (b = .fin → outData s0 = 0 ∧ outEndPin s0 = true) ∧
    (s0.outReady = false → bfcMove s0 = none ∧ (s.script = [] → step s = .next s)) ∧
    (s0.outReady = true → ∀ v, b = .data v →
      step s = .next { s0 with outPend := rest, received := s0.received ++ [.data v] }) ∧
    (s0.outReady = true → b = .fin →
      step s =
        .next
          { s0 with
            outPend := rest
            received := s0.received ++ [.fin]
            status :=
              { s0.status with
                busy := false, done := true
                geom0 := s0.status.geom0 || ((s0.cfg.op == .imgDec || s0.cfg.op == .vidFrame) && s0.rld.total == 0) }
            fidx := if s0.cfg.op = .vidFrame then s0.fidx + 1 else s0.fidx })

/-- `in_ready` tells whether BFC's next move takes a beat (20_memory.md R71): with it 1 exactly the beat on the port
is taken, with it 0 none; and it is 0 whenever `BUSY` = 0. With it 1 and no beat on the port, every operation only
waits (R74, 45 R226; log 3): BFC has no move, a step with nothing planned leaves the state as it is, and a beat that
the host has planned to offer comes to the port with nothing else changed. That it comes at once, whatever number of
moves its script entry would let BFC make first, is the model's rule for its script (log 2). A data beat that would
make its message as long as 2^64 beats is refused (00_scope.md R16; log 4). -/
def Obligations.InReadyIsFaithful : Prop :=
  (∀ s t : State, bfcMove s = some (.next t) →
      (inReady s = true → ∃ b, s.inq = b :: t.inq) ∧ (inReady s = false → t.inq = s.inq)) ∧
    (∀ s : State, s.status.busy = false → inReady s = false) ∧
    (∀ (s : State) (b : Byte) (rest : List Beat), inReady s = true → s.inq = .data b :: rest → 2 ^ 64 ≤ s.inTaken + 1 →
      bfcMove s = some (.refused .messageTooLong)) ∧
    ∀ s : State, inReady s = true → s.inq = [] →
      bfcMove s = none ∧ (s.script = [] → step s = .next s) ∧
        ∀ n b rest, s.script = ⟨n, .offer b⟩ :: rest → step s = .next { s with script := rest, inq := [b] }

/-- An idle BFC does nothing of its own (60_exceptions.md R241, R249, 70 R260): with nothing planned the state stays
as it is, which is how the model waits (log 3), and a planned act of the host comes at once, whatever number of moves
it would let BFC make first, which is the model's rule for its script (log 2). -/
def Obligations.IdleDoesNothing : Prop :=
  ∀ s : State, Idle s →
    inReady s = false ∧ outValid s = false ∧ (s.script = [] → step s = .next s) ∧
      ∀ n a rest, s.script = ⟨n, a⟩ :: rest → step s = hostAct a { s with script := rest }

/-! ### The register file -/

/-- Reading and writing registers (10_state.md R21 to R28, 20_memory.md R68, R72): a host write of numbers 2 to 7
changes that register and no other state but the address on the port; read-only and reserved numbers ignore writes,
`CTRL` ignores them while `BUSY` = 1; numbers 10 to 15 read 0, `PARAM` its constant, and a plain write of `CTRL` reads
back with the reserved bits and `START` as 0. `reg_rdata` shows the register that `reg_addr` names. -/
def Obligations.RegisterFile : Prop :=
  ∀ (s : State) (v : Word),
    hostAct (.write 2 v) s = .next { s with regAddr := 2, width := v } ∧
    hostAct (.write 3 v) s = .next { s with regAddr := 3, height := v } ∧
    hostAct (.write 4 v) s = .next { s with regAddr := 4, frameRate := v } ∧
    hostAct (.write 5 v) s = .next { s with regAddr := 5, frameCount := v } ∧
    hostAct (.write 6 v) s = .next { s with regAddr := 6, totalLo := v } ∧
    hostAct (.write 7 v) s = .next { s with regAddr := 7, totalHi := v } ∧
    (∀ n : BitVec 4, n = 1 ∨ 8 ≤ n.toNat → hostAct (.write n v) s = .next { s with regAddr := n }) ∧
    (∀ n : BitVec 4, hostAct (.read n) s = .next { s with regAddr := n } ∧
      regRdata { s with regAddr := n } = readReg s n) ∧
    (s.status.busy = true → hostAct (.write 0 v) s = .next { s with regAddr := 0 }) ∧
    (s.status.busy = false → v.getLsbD 31 = false →
      ∃ t, hostAct (.write 0 v) s = .next t ∧ t = { s with regAddr := 0, ctrl := t.ctrl } ∧
        readReg t 0 = v &&& 0x0000FF3F) ∧
    readReg s 2 = s.width ∧ readReg s 3 = s.height ∧ readReg s 4 = s.frameRate ∧ readReg s 5 = s.frameCount ∧
    readReg s 6 = s.totalLo ∧ readReg s 7 = s.totalHi ∧ readReg s 8 = s.fidx ∧ readReg s 9 = 0xFF042000 ∧
    ∀ n : BitVec 4, 10 ≤ n.toNat → readReg s n = 0

/-- The bits of `STATUS` as a host reads them, reserved bits 0, and the two pins (10_state.md R23). -/
def Obligations.StatusWordLayout : Prop :=
  ∀ s : State,
    (∀ k : Nat, (readReg s 1).getLsbD k =
      if k = 0 then s.status.busy
      else if k = 1 then s.status.done
      else if k = 2 then s.status.err
      else if 4 ≤ k ∧ k < 8 then s.status.errcode.getLsbD (k - 4)
      else if k = 8 then s.status.geom0
      else false) ∧
    pinDone s = s.status.done ∧ pinErr s = s.status.err

/-- Reset from any state (10_state.md R41, 70 R260 to R262): every host register reads its reset value, the snapshot
and the working registers hold their reset values, the ports are quiet, and what the host has received and offers is
untouched. Such a state is also `State.reset`, but for the host's side and the capacity of PBUF: there the streams are
empty, `out_ready` is 1, `reg_addr` is 0 and nothing is planned, which the spec does not say (log 2). That the buffers
and `fpr.stage` hold nothing is the model's (log 6), and so are the values of its own fields `lzd.tok`, `rld.ending`,
`fra.pout` and `inTaken` (log 11). -/
def Obligations.ResetValues : Prop :=
  ∀ s : State, ∃ t, hostAct .reset s = .next t ∧
    (∀ n : BitVec 4, readReg t n = if n = 9 then 0xFF042000 else 0) ∧
    t.cfg =
      { op := .none, pixfmt := false, thrIncl := false, thresh := 0, width := 0, height := 0, rate := 0, count := 0
        total := 0 } ∧
    t.rlu = { started := false, cur := 0, cnt := 0 } ∧
    t.lzc = { nIn := 0, eoi := false, i := 0, j := 0, len := 0, bestLen := 0, bestOff := 0, t := 0, flag := 0, glen := 0 } ∧
    t.fra = { phase := .idle, hcnt := 0, plen := 0, pout := 0 } ∧
    t.fpr.phase = .idle ∧ t.fpr.hcnt = 0 ∧ t.fpr.need = 0 ∧ t.fpr.got = 0 ∧
    t.lzd = { p := 0, outLen := 0, flags := 0, t := 0, phase := .flag, off := 0, len := 0, k := 0, start := 0, tok := [] } ∧
    t.rld = { first := true, cur := 0, produced := 0, total := 0, cnt := 0, val := 0, ending := false } ∧
    inReady t = false ∧ outValid t = false ∧ pinDone t = false ∧ pinErr t = false ∧
    t.received = s.received ∧ t.inq = s.inq ∧ t.inTaken = s.inTaken ∧
    State.reset =
      { t with
        pbufBytes := Config.pbufBytes, received := [], inq := [], inTaken := 0, outReady := true, regAddr := 0, script := [] }

/-- The snapshot is taken once (10_state.md R29, 20_memory.md R68): while BFC is busy no step but a reset changes the
snapshot or `CTRL`, whatever the host writes. -/
def Obligations.SnapshotHoldsWhileBusy : Prop :=
  ∀ s t : State, s.status.busy = true → step s = .next t → (∀ n rest, s.script ≠ ⟨n, .reset⟩ :: rest) →
    t.cfg = s.cfg ∧ t.ctrl = s.ctrl

/-- Which operation writes what (10_state.md R42, with R24 to R27): a move of BFC changes no host register but those
its operation writes, no unit and no buffer its operation does not use, takes at most one beat of input (counted in
its message, log 11), and gives the host at most one beat. -/
def Obligations.OperationFootprint : Prop :=
  ∀ s t : State, bfcMove s = some (.next t) →
    t.ctrl = s.ctrl ∧ t.cfg = s.cfg ∧ t.totalLo = s.totalLo ∧ t.totalHi = s.totalHi ∧ t.pbufBytes = s.pbufBytes ∧
    t.outReady = s.outReady ∧ t.regAddr = s.regAddr ∧ t.script = s.script ∧
    (s.cfg.op ≠ .imgDec → s.cfg.op ≠ .vidHdr → t.width = s.width ∧ t.height = s.height) ∧
    (s.cfg.op ≠ .vidHdr → t.frameRate = s.frameRate ∧ t.frameCount = s.frameCount) ∧
    (s.cfg.op ≠ .vidEnc → s.cfg.op ≠ .vidHdr → s.cfg.op ≠ .vidFrame → t.fidx = s.fidx) ∧
    (s.cfg.op.usesRlu = false → t.rlu = s.rlu) ∧
    (s.cfg.op.usesLzc = false → t.lzc = s.lzc ∧ t.hbuf = s.hbuf ∧ t.gbuf = s.gbuf) ∧
    (s.cfg.op.usesFra = false → t.fra = s.fra) ∧ (s.cfg.op.usesPbuf = false → t.pbuf = s.pbuf) ∧
    (s.cfg.op.usesFpr = false → t.fpr = s.fpr) ∧
    (s.cfg.op.usesLzd = false → t.lzd = s.lzd ∧ t.dhist = s.dhist) ∧
    (s.cfg.op.usesRld = false → t.rld = s.rld) ∧
    ((t.inq = s.inq ∧ t.inTaken = s.inTaken) ∨
      ∃ b, s.inq = b :: t.inq ∧ t.inTaken = if b = .fin then 0 else s.inTaken + 1) ∧
    (t.received = s.received ∨ ∃ b, t.received = s.received ++ [b])

/-- `FRAME_IDX` (10_state.md R27): a move of BFC leaves it alone but for three cases: VID.HDR ends with `DONE` and
sets it to 0; VID.FRAME ends with `DONE` and counts 1; VID.ENC has put out the last byte of a record and counts 1.
That VID.ENC counts in the move after that byte has been accepted is the model's choice (log 19), and `fra.pout` is
its own field (log 11). -/
def Obligations.FrameIndexRule : Prop :=
  ∀ s t : State, Inv s → bfcMove s = some (.next t) →
    (s.cfg.op = .vidHdr → t.fidx = if t.status.done then 0 else s.fidx) ∧
    (s.cfg.op = .vidFrame → t.fidx = if t.status.done then s.fidx + 1 else s.fidx) ∧
    (s.cfg.op = .vidEnc →
      t.fidx = if s.outPend = [] ∧ s.fra.phase = .payload ∧ s.fra.pout = s.fra.plen then s.fidx + 1 else s.fidx) ∧
    (s.cfg.op ≠ .vidHdr → s.cfg.op ≠ .vidFrame → s.cfg.op ≠ .vidEnc → t.fidx = s.fidx)

/-- A register written during an operation does not reach it (10_state.md R29, 20_memory.md R68, 70 R270): two busy
states that differ in the six writable registers alone make the same move, up to those registers; and each of them
either is left alone by the move in both states, or is given the same value by BFC in both, whatever the host wrote
there; `TOTAL_LO` and `TOTAL_HI` are left alone. -/
def Obligations.RegistersDoNotReachRunningOp : Prop :=
  ∀ (s t : State) (w h rate count lo hi : Word), bfcMove s = some (.next t) →
    ∃ u, bfcMove (withHostRegs s w h rate count lo hi) = some (.next u) ∧
      withHostRegs u 0 0 0 0 0 0 = withHostRegs t 0 0 0 0 0 0 ∧
      ((u.width = w ∧ t.width = s.width) ∨ u.width = t.width) ∧
      ((u.height = h ∧ t.height = s.height) ∨ u.height = t.height) ∧
      ((u.frameRate = rate ∧ t.frameRate = s.frameRate) ∨ u.frameRate = t.frameRate) ∧
      ((u.frameCount = count ∧ t.frameCount = s.frameCount) ∨ u.frameCount = t.frameCount) ∧
      u.totalLo = lo ∧ u.totalHi = hi ∧ t.totalLo = s.totalLo ∧ t.totalHi = s.totalHi

/-! ### Invariants -/

/-- The reset state meets the invariant (10_state.md R41, R23), which holds the choices of the model that StepKeepsInv
names (logs 4, 6, 11, 12, 21). -/
def Obligations.ResetMeetsInv : Prop := Inv State.reset

/-- Every step of the machine keeps the invariant: the legal values of `STATUS` (10_state.md R23, 60_exceptions.md
R239), the ranges of the units' registers and of the payload of a group (10_state.md section 4, R38), the canonical form
of the buffers, that no beat waits and no element has been put out while FPR stages (60_exceptions.md R237), that an
idle BFC offers no beat (45 R225), VID.HDR never does (44 R205), and an end marker is the last beat of its message
(20_memory.md R71).
Several clauses are the model's. That `GEOM0` is 0 while `BUSY` is 1 is its reading of R39 beside the pseudocode of R192
and R206 (log 21). That each buffer holds exactly what the running operation has written, up to its fill count, is its
way to hold the buffers of R60 to R62 (log 6). The clauses on `inTaken` (R16), `rld.ending`, `fra.pout` and `fpr.stage`
are about its own fields or its own contents of them (logs 6 and 11). That counters are numbers below the limits of
their widths is log 4, and that at most 255 bytes stand ahead of `lzc.i` is log 12. -/
def Obligations.StepKeepsInv : Prop := ∀ s t : State, Inv s → step s = .next t → Inv t

/-- No unit reads a buffer byte that the operation has not written (20_memory.md R62): from a state with the invariant
no step faults, the fault being the model's for such a read (log 6). -/
def Obligations.NoStepFaults : Prop := ∀ (s : State) (e : Fault), Inv s → step s ≠ .fault e

/-! ### BIN and the run-length codec -/

/-- BIN (45_binarize_and_control.md R220): bit 0 in RAW format, a comparison with the threshold in GRAY8, strict or
inclusive as `thr_incl` says. -/
def Obligations.BinarizeRule : Prop :=
  ∀ (c : Cfg) (b : Byte),
    (c.pixfmt = false → (binPixel c b).toNat = b.toNat % 2) ∧
    (c.pixfmt = true → c.thrIncl = false → (binPixel c b = 1 ↔ c.thresh.toNat < b.toNat)) ∧
    (c.pixfmt = true → c.thrIncl = true → (binPixel c b = 1 ↔ c.thresh.toNat ≤ b.toNat))

/-- The run-length round trip (40_run_length.md R133). -/
def Obligations.RunLengthRoundTrip : Prop :=
  ∀ bits : List (BitVec 1), rleDec (rleEnc bits) bits.length = bits.map (fun b => b.setWidth 8)

/-- The decoder always returns exactly `total` elements: the expansion cut to `total`, or padded with the value of the
last record, or with the START byte if there is none (40_run_length.md R127, R129 to R131). -/
def Obligations.RunLengthDecodeExact : Prop :=
  ∀ (s : List Byte) (total : Nat),
    (rleDec s total).length = total ∧ rleDec s 0 = [] ∧
      (∀ k, k < total → k < (s.tail.flatMap runElements).length →
        (rleDec s total)[k]? = (s.tail.flatMap runElements)[k]?) ∧
      ∀ k, k < total → (s.tail.flatMap runElements).length ≤ k →
        (rleDec s total)[k]? =
          some (match s.tail.getLast? with
            | some r => (r.extractLsb' 0 4).setWidth 8
            | none => s.headD 0)

/-- The shape of the encoder's output by maximal runs (40_run_length.md R125): START, then for each maximal run its
full records of 15 and, if something is left, one record of the rest. -/
def Obligations.RunLengthShape : Prop :=
  ∀ (b : BitVec 1) (bits : List (BitVec 1)),
    rleEnc (b :: bits) =
      b.setWidth 8 ::
        ((b :: bits).splitBy (· == ·)).flatMap fun r =>
          List.replicate (r.length / 15) (runByte 15 ((r.headD 0).setWidth 4)) ++
            if r.length % 15 = 0 then [] else [runByte (BitVec.ofNat 4 (r.length % 15)) ((r.headD 0).setWidth 4)]

/-- The encoder's streams are well-formed, two records side by side have equal values only where the first is full,
the counts sum to the number of pixels, and the length lies between its bounds (30_encoding.md R83, 40_run_length.md
R125). -/
def Obligations.RunLengthEncodeWellFormed : Prop :=
  ∀ bits : List (BitVec 1),
    wfRs (rleEnc bits) = true ∧
      (∀ k x y, (rleEnc bits).tail[k]? = some x → (rleEnc bits).tail[k + 1]? = some y →
        x.extractLsb' 0 4 = y.extractLsb' 0 4 → x.extractLsb' 4 4 = 15) ∧
      ((rleEnc bits).tail.map (fun r => (r.extractLsb' 4 4).toNat)).sum = bits.length ∧
      (rleEnc bits).length ≤ bits.length + 1 ∧ (bits.length + 14) / 15 + 1 ≤ (rleEnc bits).length

/-! ### The window codec -/

/-- `MATCHLEN` is the largest length that the cap, the end of the input and equality of the bytes allow
(41_window_compressor.md R142). -/
def Obligations.MatchLengthIsLargest : Prop :=
  ∀ (d : List Byte) (i j : Nat), j < i → i ≤ d.length →
    IsGreatest { n : Nat | n ≤ 255 ∧ i + n ≤ d.length ∧ ∀ k, k < n → d[j + k]? = d[i + k]? } (matchLen d i j)

/-- `FIND` gives the longest match of the whole window, and of the longest ones the nearest; 0 and 0 where nothing
matches (41_window_compressor.md R143, R141, R154). -/
def Obligations.FindIsLongestThenNearest : Prop :=
  ∀ (d : List Byte) (i : Nat),
    (∀ off, 1 ≤ off → off ≤ min i 8192 → matchLen d i (i - off) ≤ (find d i).2) ∧
      ((find d i).2 = 0 → (find d i).1 = 0) ∧
      (0 < (find d i).2 →
        1 ≤ (find d i).1 ∧ (find d i).1 ≤ min i 8192 ∧ matchLen d i (i - (find d i).1) = (find d i).2 ∧
          ∀ off, 1 ≤ off → off < (find d i).1 → matchLen d i (i - off) < (find d i).2)

/-- The window round trip (41_window_compressor.md R156). -/
def Obligations.WindowRoundTrip : Prop := ∀ d : List Byte, lzDecomp (lzComp d) = d

/-- Every block the compressor makes is well-formed: whole tokens, fields in the forms the thresholds dictate and in
their ranges, no offset beyond what has been produced, unused flag bits 0 (30_encoding.md R93 to R95). -/
def Obligations.CompressedBlockWellFormed : Prop := ∀ d : List Byte, wfCb (lzComp d) = true

/-- The size of a block (41_window_compressor.md R157, R150): at most a flag byte for each eight bytes of input beside
them, which is reached when no match of four bytes or more exists; nothing for nothing. -/
def Obligations.CompressedSizeBound : Prop :=
  (∀ d : List Byte, (lzComp d).length ≤ d.length + (d.length + 7) / 8) ∧
    (∀ d : List Byte, (∀ i, i < d.length → (find d i).2 < 4) → (lzComp d).length = d.length + (d.length + 7) / 8) ∧
    lzComp [] = []

/-- The decompressor's output is bounded by its input (42_window_decompressor.md R181). -/
def Obligations.DecompressedSizeBound : Prop := ∀ b : List Byte, (lzDecomp b).length ≤ 4095 * b.length / 2

/-- Lookahead (41_window_compressor.md R152, 70 R265): while fewer than 255 bytes beyond `i` have been received and no
end of input has been seen, no move of LZ.COMP, or of IMG.ENC and VID.ENC in BODY, makes a token, whether or not a
beat stands on IN: the position stays, and the tokens of the group stay or a group of eight closes. With nothing on IN
and a group that is not full, such an operation only waits for a beat (log 3). -/
def Obligations.CompressorWaitsForLookahead : Prop :=
  ∀ s : State,
    s.cfg.op = .lzComp ∨ ((s.cfg.op = .imgEnc ∨ s.cfg.op = .vidEnc) ∧ s.fra.phase = .body) →
    s.lzc.eoi = false → s.lzc.nIn - s.lzc.i < 255 →
    (∀ t, bfcMove s = some (.next t) →
      t.lzc.i = s.lzc.i ∧ (t.lzc.t = s.lzc.t ∨ (s.lzc.t = 8 ∧ t.lzc.t = 0 ∧ t.lzc.nIn = s.lzc.nIn))) ∧
    (s.status.busy = true → s.outPend = [] → s.inq = [] → s.lzc.t < 8 →
      inReady s = true ∧ bfcMove s = none ∧ (s.script = [] → step s = .next s))

/-- The capacities of the history buffers are enough (00_scope.md R7; 20_memory.md R60, R61, R70; 42 R183): the search
and the token at position `i` depend on `HBUF_BYTES` = 8447 bytes of the input alone, those of the window and the
longest match ahead; and the effect of a back-reference depends on the last `DHIST_BYTES` = 16383 bytes of the output
alone: with a history that agrees on those, every shape has the same effect on everything but older bytes of the
history. So the sequences that the model keeps, as R60 and R61 advise (log 6), hold nothing that the spec's buffers
lack. -/
def Obligations.HistoryCapacitiesSuffice : Prop :=
  Config.hbufBytes = Config.windowSize + Config.maxMatch ∧ Config.gbufBytes = Config.group * 4 ∧
    Config.dhistBytes = 2 ^ 14 - 1 ∧
    (∀ (d e : List Byte) (i : Nat),
      (∀ a, i - 8192 ≤ a → a < i + 255 → d[a]? = e[a]?) →
      find d i = find e i ∧ tokenBytes d i (find d i) = tokenBytes e i (find e i)) ∧
    ∀ (i : Instr) (s t : State) (m : Memory), i.ctx = .reference → exec i s = .next t →
      (∀ a, s.lzd.outLen - 16383 ≤ a → Memory.read m a = Memory.read s.dhist a) →
      ∃ m', exec i { s with dhist := m } = .next { t with dhist := m' } ∧
        ∀ a, s.lzd.outLen - 16383 ≤ a → Memory.read m' a = Memory.read t.dhist a

/-! ### The containers -/

/-- The single-image round trip (43_single_image.md R197, by 40_run_length.md R133 and 41_window_compressor.md R156):
the header comes back, and the pixels, cut to the declared size (R129) or padded to it with the last pixel (R130), or
with 0 where there is none (R135); where the number of pixels is the declared size, exactly the pixels. -/
def Obligations.ImageRoundTrip : Prop :=
  ∀ (bits : List (BitVec 1)) (w h : Word),
    imgDec (imgEnc bits w h) =
        some (w, h,
          (bits.map (fun b => b.setWidth 8)).take (w.toNat * h.toNat) ++
            List.replicate (w.toNat * h.toNat - bits.length) ((bits.getLastD 0).setWidth 8)) ∧
      (bits.length = w.toNat * h.toNat → imgDec (imgEnc bits w h) = some (w, h, bits.map (fun b => b.setWidth 8)))

/-- The multi-frame round trip (44_multi_frame.md R213, R214): the file begins with the header, which decodes to the
four values; its records follow; each record decodes to a length and that many bytes, which decode to the frame. -/
def Obligations.VideoRoundTrip : Prop :=
  (∀ (frames : List (List (BitVec 1))) (w h : BitVec 16) (rate : Word), frames.length < 2 ^ 32 →
      decode .vidHeader (vidEnc frames w h rate) =
        .ok (.vidHeader w h rate (BitVec.ofNat 32 frames.length), frames.flatMap frameRecord) ∧
      (vidEnc frames w h rate).length = 12 + (frames.map (fun f => 4 + (lzComp (rleEnc f)).length)).sum) ∧
    ∀ (bits : List (BitVec 1)) (w h : BitVec 16) (rest : List Byte),
      bits.length = w.toNat * h.toNat → (lzComp (rleEnc bits)).length < 2 ^ 32 →
      ∃ n payload, decode .frameLen (frameRecord bits ++ rest) = .ok (.frameLen n, payload ++ rest) ∧
        n.toNat = payload.length ∧ vidFrame payload w h = bits.map (fun b => b.setWidth 8)

/-! ### Whole operations -/

/-- RLE.ENC from START to DONE (40_run_length.md R120 to R123): from any idle BFC, with one message on IN, the host
receives exactly the RunStream of the pixels that BIN makes of the beats. The input is an admitted one (00_scope.md
R16). -/
def Obligations.RunsRleEnc : Prop :=
  ∀ (f : CmdFields) (s : State) (bs : List Byte) (rest : List Beat),
    HostServes s → Idle s → s.inq = message bs ++ rest → s.inTaken + bs.length < 2 ^ 64 →
    ∃ s0, exec (.rleEnc f) s = .next s0 ∧
      Reaches s0 (EndedDone s false (message (rleEnc (bs.map (binPixel s0.cfg)))) rest)

/-- RLE.DEC from START to DONE (40_run_length.md R127 to R132): the host receives exactly `TOTAL_HI:TOTAL_LO`
elements, the decoding of the message, whatever bytes it has. The input is an admitted one (00_scope.md R16). -/
def Obligations.RunsRleDec : Prop :=
  ∀ (f : CmdFields) (s : State) (bs : List Byte) (rest : List Beat),
    HostServes s → Idle s → s.inq = message bs ++ rest → s.inTaken + bs.length < 2 ^ 64 →
    ∃ s0, exec (.rleDec f) s = .next s0 ∧
      Reaches s0
        (EndedDone s false (message (rleDec bs (s.totalHi.toNat * 2 ^ 32 + s.totalLo.toNat))) rest)

/-- LZ.COMP from START to DONE (41_window_compressor.md R140, R151, R152): the step form computes `LZ_COMP`. The input
is an admitted one (00_scope.md R16). -/
def Obligations.RunsLzComp : Prop :=
  ∀ (f : CmdFields) (s : State) (bs : List Byte) (rest : List Beat),
    HostServes s → Idle s → s.inq = message bs ++ rest → s.inTaken + bs.length < 2 ^ 64 →
    ∃ s0, exec (.lzComp f) s = .next s0 ∧ Reaches s0 (EndedDone s false (message (lzComp bs)) rest)

/-- LZ.DECOMP from START to DONE (42_window_decompressor.md R170, R178 to R180): the step form computes `LZ_DECOMP` on
every byte sequence and never raises. The input is an admitted one (00_scope.md R16). -/
def Obligations.RunsLzDecomp : Prop :=
  ∀ (f : CmdFields) (s : State) (bs : List Byte) (rest : List Beat),
    HostServes s → Idle s → s.inq = message bs ++ rest → s.inTaken + bs.length < 2 ^ 64 →
    (lzDecomp bs).length < 2 ^ 64 →
    ∃ s0, exec (.lzDecomp f) s = .next s0 ∧ Reaches s0 (EndedDone s false (message (lzDecomp bs)) rest)

/-- IMG.ENC from START to DONE (43_single_image.md R190, R191): the header from the registers, then the block of the
pixels, whatever their number. The input is an admitted one (00_scope.md R16). -/
def Obligations.RunsImgEnc : Prop :=
  ∀ (f : CmdFields) (s : State) (bs : List Byte) (rest : List Beat),
    HostServes s → Idle s → s.inq = message bs ++ rest → s.inTaken + bs.length < 2 ^ 64 →
    bs.length + 1 < 2 ^ 64 →
    ∃ s0, exec (.imgEnc f) s = .next s0 ∧
      Reaches s0 (EndedDone s false (message (imgEnc (bs.map (binPixel s0.cfg)) s.width s.height)) rest)

/-- IMG.DEC from START to DONE on a file with a whole header (43_single_image.md R192, R194 to R196): `WIDTH` and
`HEIGHT` are the header's, the host receives exactly their product of elements, and `GEOM0` tells whether one of them
is 0. The input is an admitted one (00_scope.md R16). -/
def Obligations.RunsImgDec : Prop :=
  ∀ (f : CmdFields) (s : State) (w h : Word) (payload : List Byte) (rest : List Beat),
    HostServes s → Idle s → s.inq = message (be32 w ++ be32 h ++ payload) ++ rest →
    s.inTaken + 8 + payload.length < 2 ^ 64 → (lzDecomp payload).length < 2 ^ 64 →
    ∃ s0, exec (.imgDec f) s = .next s0 ∧
      Reaches s0 (fun t =>
        EndedDone s (w == 0 || h == 0) (message (rleDec (lzDecomp payload) (w.toNat * h.toNat))) rest t ∧
          t.width = w ∧ t.height = h)

/-- VID.ENC from START to DONE (44_multi_frame.md R200 to R204): one message for each frame that `FRAME_COUNT`
announces, and the host receives the file; `FRAME_IDX` ends at the count. The bounds are the admitted inputs'
(00_scope.md R16). -/
def Obligations.RunsVidEnc : Prop :=
  ∀ (f : CmdFields) (s : State) (frames : List (List Byte)) (rest : List Beat),
    HostServes s → Idle s → s.inq = frames.flatMap message ++ rest → frames.length = s.frameCount.toNat →
    s.inTaken + (frames.headD []).length < 2 ^ 64 →
    ∃ s0, exec (.vidEnc f) s = .next s0 ∧
      ((∀ bs ∈ frames, bs.length + 1 < 2 ^ 64 ∧
          (lzComp (rleEnc (bs.map (binPixel s0.cfg)))).length < 2 ^ 32 ∧
          (lzComp (rleEnc (bs.map (binPixel s0.cfg)))).length ≤ s.pbufBytes) →
        Reaches s0 (fun t =>
          EndedDone s false
              (message (vidEnc (frames.map (fun bs => bs.map (binPixel s0.cfg))) (s.width.setWidth 16)
                (s.height.setWidth 16) s.frameRate))
              rest t ∧
            t.fidx = s.frameCount))

/-- VID.HDR from START to DONE on twelve bytes (44_multi_frame.md R205): the four header registers, `FRAME_IDX` 0, no
beat put out, exactly the twelve beats taken. The input is an admitted one (00_scope.md R16). -/
def Obligations.RunsVidHdr : Prop :=
  ∀ (f : CmdFields) (s : State) (w h : BitVec 16) (rate count : Word) (rest : List Beat),
    HostServes s → Idle s → s.inq = (be16 w ++ be16 h ++ be32 rate ++ be32 count).map Beat.data ++ rest →
    s.inTaken + 12 < 2 ^ 64 →
    ∃ s0, exec (.vidHdr f) s = .next s0 ∧
      Reaches s0 (fun t =>
        EndedDone s (w == 0 || h == 0) [] rest t ∧ t.width.toNat = w.toNat ∧ t.height.toNat = h.toNat ∧
          t.frameRate = rate ∧ t.frameCount = count ∧ t.fidx = 0)

/-- VID.FRAME from START to DONE on a whole FrameRecord (44_multi_frame.md R206, R209, R212): the host receives
exactly the elements of the frame, exactly the record's beats are taken, and `FRAME_IDX` counts one. The input is an
admitted one (00_scope.md R16). -/
def Obligations.RunsVidFrame : Prop :=
  ∀ (f : CmdFields) (s : State) (payload : List Byte) (rest : List Beat),
    HostServes s → Idle s → payload.length < 2 ^ 32 → payload.length ≤ s.pbufBytes →
    s.inTaken + 4 + payload.length < 2 ^ 64 → (lzDecomp payload).length < 2 ^ 64 →
    s.inq = (be32 (BitVec.ofNat 32 payload.length) ++ payload).map Beat.data ++ rest →
    ∃ s0, exec (.vidFrame f) s = .next s0 ∧
      Reaches s0 (fun t =>
        EndedDone s (s.width.setWidth 16 == 0#16 || s.height.setWidth 16 == 0#16)
            (message (vidFrame payload (s.width.setWidth 16) (s.height.setWidth 16))) rest t ∧
          t.fidx = s.fidx + 1)

/-- An operation that raises leaves nothing behind (60_exceptions.md R237, R238, 43 R193, 44 R205, R207): from START
on a message that ends too early, the machine comes to `ERR` with the operation's code, having given the host no beat,
written no header register and not counted, with the beats up to the `End` taken. The input is an admitted one
(00_scope.md R16). -/
def Obligations.RaisingLeavesNothing : Prop :=
  ∀ (f : CmdFields) (s : State) (bs : List Byte) (rest : List Beat),
    HostServes s → Idle s → s.inq = message bs ++ rest → s.inTaken + bs.length < 2 ^ 64 →
    ∀ (i : Instr) (c : BitVec 4),
      (i = .imgDec f ∧ bs.length < 8 ∧ c = 1) ∨ (i = .vidHdr f ∧ bs.length < 12 ∧ c = 1) ∨
        (i = .vidFrame f ∧ bs.length < 4 ∧ c = 2) ∨
        (i = .vidFrame f ∧ c = 2 ∧ ∃ n payload, bs = be32 n ++ payload ∧ payload.length < n.toNat ∧
          payload.length ≤ s.pbufBytes) →
      ∃ s0, exec i s = .next s0 ∧
        Reaches s0 (fun t =>
          t.status = { busy := false, done := false, err := true, errcode := c, geom0 := false } ∧
            t.received = s.received ∧ t.outPend = [] ∧ t.inq = rest ∧ t.width = s.width ∧ t.height = s.height ∧
            t.frameRate = s.frameRate ∧ t.frameCount = s.frameCount ∧ t.fidx = s.fidx)
end

