-- ==== Sys2Proof/Laws/Buffers.lean ====
section
/-! SUPPORT. The laws of the byte buffers: reading after writing, the canonical form, and that a buffer filled from position
0 is the sequence written to it (20_memory.md R60 to R62). -/

namespace Sys2Proof.Machine

/-! ### Reading after writing -/

theorem Memory.read_write (m : Memory) (a : Nat) (v : Byte) (b : Nat) :
    Memory.read (Memory.write m a v) b = if a = b then some v else Memory.read m b := by
  induction m with
  | nil => simp [Memory.write, Memory.read]
  | cons c m ih =>
    obtain ⟨x, y⟩ := c
    rcases lt_trichotomy a x with h | h | h
    · simp [Memory.write, Memory.read, h]
    · subst h
      simp only [Memory.write, lt_irrefl, if_false, if_true, Memory.read]
      split <;> rfl
    · simp only [Memory.write, not_lt_of_gt h, if_false, h.ne', Memory.read, ih]
      by_cases hx : x = b
      · subst hx; simp [h.ne']
      · simp [hx]

@[simp] theorem Memory.read_write_same (m : Memory) (a : Nat) (v : Byte) :
    Memory.read (Memory.write m a v) a = some v := by
  simp [Memory.read_write]

theorem Memory.read_write_other (m : Memory) {a b : Nat} (v : Byte) (h : a ≠ b) :
    Memory.read (Memory.write m a v) b = Memory.read m b := by
  simp [Memory.read_write, h]

/-! ### The canonical form -/

theorem Memory.mem_write {m : Memory} {a : Nat} {v : Byte} {c : Host.Cell} (h : c ∈ Memory.write m a v) :
    c = (a, v) ∨ c ∈ m := by
  induction m with
  | nil => simpa [Memory.write] using h
  | cons d m ih =>
    obtain ⟨x, y⟩ := d
    simp only [Memory.write] at h
    split at h
    · simpa using h
    · split at h
      · rcases List.mem_cons.1 h with h | h
        · exact .inl h
        · exact .inr (List.mem_cons_of_mem _ h)
      · rcases List.mem_cons.1 h with h | h
        · exact .inr (h ▸ List.mem_cons_self)
        · exact (ih h).imp id (List.mem_cons_of_mem _)

theorem Memory.wf_nil : Memory.wf [] := List.Pairwise.nil

/-- A write keeps the canonical form. -/
theorem Memory.wf_write {m : Memory} (a : Nat) (v : Byte) (h : Memory.wf m) : Memory.wf (Memory.write m a v) := by
  induction m with
  | nil => simp [Memory.write, Memory.wf]
  | cons d m ih =>
    obtain ⟨x, y⟩ := d
    obtain ⟨hd, hm⟩ := List.pairwise_cons.1 h
    simp only [Memory.write]
    split
    · rename_i hax
      exact List.pairwise_cons.2
        ⟨fun c hc => (List.mem_cons.1 hc).elim (fun e => e ▸ hax) (fun hc => hax.trans (hd c hc)), h⟩
    · split
      · rename_i hax
        subst hax
        exact List.pairwise_cons.2 ⟨hd, hm⟩
      · refine List.pairwise_cons.2 ⟨fun c hc => ?_, ih hm⟩
        rcases Memory.mem_write hc with e | hc
        · subst e; simp only; omega
        · exact hd c hc

/-- Writing several bytes keeps the canonical form. -/
theorem Memory.wf_writeAll {m : Memory} (a : Nat) (bs : List Byte) (h : Memory.wf m) :
    Memory.wf (Memory.writeAll m a bs) := by
  induction bs generalizing m a with
  | nil => exact h
  | cons b bs ih => exact ih (a + 1) (Memory.wf_write a b h)

/-! ### Sequences as buffers -/

theorem Memory.ofBytesFrom_keys (a : Nat) (d : List Byte) :
    (Memory.ofBytesFrom a d).map Prod.fst = List.range' a d.length := by
  induction d generalizing a with
  | nil => rfl
  | cons b d ih => simp [Memory.ofBytesFrom, ih, List.range'_succ]

/-- A sequence fills its buffer. -/
theorem Memory.filled_ofBytes (d : List Byte) : Memory.filled (Memory.ofBytes d) d.length := by
  simp [Memory.filled, Memory.ofBytes, Memory.ofBytesFrom_keys, List.range_eq_range']

theorem Memory.ofBytesFrom_of_keys {a n : Nat} {m : Memory} (h : m.map Prod.fst = List.range' a n) :
    ∃ d, d.length = n ∧ m = Memory.ofBytesFrom a d := by
  induction m generalizing a n with
  | nil =>
    cases n with
    | zero => exact ⟨[], rfl, rfl⟩
    | succ n => simp [List.range'_succ] at h
  | cons c m ih =>
    cases n with
    | zero => simp at h
    | succ n =>
      obtain ⟨x, y⟩ := c
      simp only [List.map_cons, List.range'_succ, List.cons.injEq] at h
      obtain ⟨hx, hm⟩ := h
      obtain ⟨d, hd, e⟩ := ih hm
      exact ⟨y :: d, by simp [hd], by simp [Memory.ofBytesFrom, hx, e]⟩

/-- A filled buffer is a sequence of that length, and only such a buffer is filled. -/
theorem Memory.filled_iff {m : Memory} {n : Nat} :
    Memory.filled m n ↔ ∃ d, d.length = n ∧ m = Memory.ofBytes d := by
  constructor
  · intro h
    exact Memory.ofBytesFrom_of_keys (a := 0) (by rw [h, List.range_eq_range'])
  · rintro ⟨d, rfl, rfl⟩
    exact Memory.filled_ofBytes d

theorem Memory.filled_nil : Memory.filled [] 0 := rfl

/-- A filled buffer is in canonical form. -/
theorem Memory.wf_of_filled {m : Memory} {n : Nat} (h : Memory.filled m n) : Memory.wf m := by
  have : (m.map Prod.fst).Pairwise (· < ·) := h ▸ List.pairwise_lt_range
  exact List.pairwise_map.1 this

theorem Memory.read_ofBytesFrom (a : Nat) (d : List Byte) (b : Nat) :
    Memory.read (Memory.ofBytesFrom a d) (a + b) = d[b]? := by
  induction d generalizing a b with
  | nil => simp [Memory.ofBytesFrom, Memory.read]
  | cons x d ih =>
    cases b with
    | zero => simp [Memory.ofBytesFrom, Memory.read]
    | succ b =>
      have := ih (a + 1) b
      rw [Nat.add_right_comm, Nat.add_assoc] at this
      simp [Memory.ofBytesFrom, Memory.read, this]

/-- Reading a sequence's buffer is indexing the sequence. -/
@[simp] theorem Memory.read_ofBytes (d : List Byte) (b : Nat) : Memory.read (Memory.ofBytes d) b = d[b]? := by
  simpa [Memory.ofBytes] using Memory.read_ofBytesFrom 0 d b

theorem Memory.write_ofBytesFrom (a : Nat) (d : List Byte) (v : Byte) :
    Memory.write (Memory.ofBytesFrom a d) (a + d.length) v = Memory.ofBytesFrom a (d ++ [v]) := by
  induction d generalizing a with
  | nil => simp [Memory.ofBytesFrom, Memory.write]
  | cons x d ih =>
    have := ih (a + 1)
    rw [Nat.add_right_comm, Nat.add_assoc] at this
    simp [Memory.ofBytesFrom, Memory.write, this]

/-- Writing at the end of a sequence's buffer appends. -/
@[simp] theorem Memory.write_ofBytes (d : List Byte) (v : Byte) :
    Memory.write (Memory.ofBytes d) d.length v = Memory.ofBytes (d ++ [v]) := by
  simpa [Memory.ofBytes] using Memory.write_ofBytesFrom 0 d v

/-- Writing several bytes at the end of a sequence's buffer appends them. -/
theorem Memory.writeAll_ofBytes (d bs : List Byte) :
    Memory.writeAll (Memory.ofBytes d) d.length bs = Memory.ofBytes (d ++ bs) := by
  induction bs generalizing d with
  | nil => simp [Memory.writeAll]
  | cons b bs ih =>
    have := ih (d ++ [b])
    simp only [List.length_append, List.length_cons, List.length_nil, List.append_assoc] at this
    simpa [Memory.writeAll] using this

theorem Memory.bytesFrom_ofBytesFrom (a : Nat) (d : List Byte) :
    Memory.bytesFrom a d.length (Memory.ofBytesFrom a d) = some d := by
  induction d generalizing a with
  | nil => rfl
  | cons x d ih => simp [Memory.ofBytesFrom, Memory.bytesFrom, ih]

/-- The bytes of a sequence's buffer are the sequence. -/
@[simp] theorem Memory.bytes_ofBytes (d : List Byte) : Memory.bytes (Memory.ofBytes d) d.length = some d :=
  Memory.bytesFrom_ofBytesFrom 0 d

/-- Writing the next byte of a filled buffer fills one more position. -/
theorem Memory.filled_write {m : Memory} {n : Nat} (v : Byte) (h : Memory.filled m n) :
    Memory.filled (Memory.write m n v) (n + 1) := by
  obtain ⟨d, rfl, rfl⟩ := Memory.filled_iff.1 h
  exact Memory.filled_iff.2 ⟨d ++ [v], by simp, by simp⟩

/-- Writing on at the end of a filled buffer fills that many more positions. -/
theorem Memory.filled_writeAll {m : Memory} {n : Nat} (bs : List Byte) (h : Memory.filled m n) :
    Memory.filled (Memory.writeAll m n bs) (n + bs.length) := by
  obtain ⟨d, rfl, rfl⟩ := Memory.filled_iff.1 h
  exact Memory.filled_iff.2 ⟨d ++ bs, by simp, Memory.writeAll_ofBytes d bs⟩

/-- A filled buffer can be read as a whole. -/
theorem Memory.bytes_of_filled {m : Memory} {n : Nat} (h : Memory.filled m n) :
    ∃ d, Memory.bytes m n = some d ∧ d.length = n ∧ m = Memory.ofBytes d := by
  obtain ⟨d, rfl, rfl⟩ := Memory.filled_iff.1 h
  exact ⟨d, Memory.bytes_ofBytes d, rfl, rfl⟩

/-- A filled buffer can be read at every position below its fill count. -/
theorem Memory.read_of_filled {m : Memory} {n a : Nat} (h : Memory.filled m n) (ha : a < n) :
    ∃ b, Memory.read m a = some b := by
  obtain ⟨d, rfl, rfl⟩ := Memory.filled_iff.1 h
  exact ⟨d[a], by simp [ha]⟩

end Sys2Proof.Machine
end

