-- ==== Sys2Proof/Laws/State.lean ====
section
/-! SUPPORT. For each update of the state, what each field is after it: true by unfolding the update once, so that no later
proof unfolds it. -/

namespace Sys2Proof.Machine

/-! ### `outBytes` -/

@[simp] theorem outBytes_ctrl (bs : List Byte) (s : State) : (outBytes bs s).ctrl = s.ctrl := rfl
@[simp] theorem outBytes_status (bs : List Byte) (s : State) : (outBytes bs s).status = s.status := rfl
@[simp] theorem outBytes_width (bs : List Byte) (s : State) : (outBytes bs s).width = s.width := rfl
@[simp] theorem outBytes_height (bs : List Byte) (s : State) : (outBytes bs s).height = s.height := rfl
@[simp] theorem outBytes_frameRate (bs : List Byte) (s : State) : (outBytes bs s).frameRate = s.frameRate := rfl
@[simp] theorem outBytes_frameCount (bs : List Byte) (s : State) : (outBytes bs s).frameCount = s.frameCount := rfl
@[simp] theorem outBytes_totalLo (bs : List Byte) (s : State) : (outBytes bs s).totalLo = s.totalLo := rfl
@[simp] theorem outBytes_totalHi (bs : List Byte) (s : State) : (outBytes bs s).totalHi = s.totalHi := rfl
@[simp] theorem outBytes_fidx (bs : List Byte) (s : State) : (outBytes bs s).fidx = s.fidx := rfl
@[simp] theorem outBytes_cfg (bs : List Byte) (s : State) : (outBytes bs s).cfg = s.cfg := rfl
@[simp] theorem outBytes_rlu (bs : List Byte) (s : State) : (outBytes bs s).rlu = s.rlu := rfl
@[simp] theorem outBytes_lzc (bs : List Byte) (s : State) : (outBytes bs s).lzc = s.lzc := rfl
@[simp] theorem outBytes_fra (bs : List Byte) (s : State) : (outBytes bs s).fra = s.fra := rfl
@[simp] theorem outBytes_fpr (bs : List Byte) (s : State) : (outBytes bs s).fpr = s.fpr := rfl
@[simp] theorem outBytes_lzd (bs : List Byte) (s : State) : (outBytes bs s).lzd = s.lzd := rfl
@[simp] theorem outBytes_rld (bs : List Byte) (s : State) : (outBytes bs s).rld = s.rld := rfl
@[simp] theorem outBytes_hbuf (bs : List Byte) (s : State) : (outBytes bs s).hbuf = s.hbuf := rfl
@[simp] theorem outBytes_gbuf (bs : List Byte) (s : State) : (outBytes bs s).gbuf = s.gbuf := rfl
@[simp] theorem outBytes_pbuf (bs : List Byte) (s : State) : (outBytes bs s).pbuf = s.pbuf := rfl
@[simp] theorem outBytes_dhist (bs : List Byte) (s : State) : (outBytes bs s).dhist = s.dhist := rfl
@[simp] theorem outBytes_pbufBytes (bs : List Byte) (s : State) : (outBytes bs s).pbufBytes = s.pbufBytes := rfl
@[simp] theorem outBytes_outPend (bs : List Byte) (s : State) : (outBytes bs s).outPend = s.outPend ++ bs.map Beat.data := rfl
@[simp] theorem outBytes_received (bs : List Byte) (s : State) : (outBytes bs s).received = s.received := rfl
@[simp] theorem outBytes_inq (bs : List Byte) (s : State) : (outBytes bs s).inq = s.inq := rfl
@[simp] theorem outBytes_inTaken (bs : List Byte) (s : State) : (outBytes bs s).inTaken = s.inTaken := rfl
@[simp] theorem outBytes_outReady (bs : List Byte) (s : State) : (outBytes bs s).outReady = s.outReady := rfl
@[simp] theorem outBytes_regAddr (bs : List Byte) (s : State) : (outBytes bs s).regAddr = s.regAddr := rfl
@[simp] theorem outBytes_script (bs : List Byte) (s : State) : (outBytes bs s).script = s.script := rfl

/-! ### `outEnd` -/

@[simp] theorem outEnd_ctrl (s : State) : (outEnd s).ctrl = s.ctrl := rfl
@[simp] theorem outEnd_status (s : State) : (outEnd s).status = s.status := rfl
@[simp] theorem outEnd_width (s : State) : (outEnd s).width = s.width := rfl
@[simp] theorem outEnd_height (s : State) : (outEnd s).height = s.height := rfl
@[simp] theorem outEnd_frameRate (s : State) : (outEnd s).frameRate = s.frameRate := rfl
@[simp] theorem outEnd_frameCount (s : State) : (outEnd s).frameCount = s.frameCount := rfl
@[simp] theorem outEnd_totalLo (s : State) : (outEnd s).totalLo = s.totalLo := rfl
@[simp] theorem outEnd_totalHi (s : State) : (outEnd s).totalHi = s.totalHi := rfl
@[simp] theorem outEnd_fidx (s : State) : (outEnd s).fidx = s.fidx := rfl
@[simp] theorem outEnd_cfg (s : State) : (outEnd s).cfg = s.cfg := rfl
@[simp] theorem outEnd_rlu (s : State) : (outEnd s).rlu = s.rlu := rfl
@[simp] theorem outEnd_lzc (s : State) : (outEnd s).lzc = s.lzc := rfl
@[simp] theorem outEnd_fra (s : State) : (outEnd s).fra = s.fra := rfl
@[simp] theorem outEnd_fpr (s : State) : (outEnd s).fpr = s.fpr := rfl
@[simp] theorem outEnd_lzd (s : State) : (outEnd s).lzd = s.lzd := rfl
@[simp] theorem outEnd_rld (s : State) : (outEnd s).rld = s.rld := rfl
@[simp] theorem outEnd_hbuf (s : State) : (outEnd s).hbuf = s.hbuf := rfl
@[simp] theorem outEnd_gbuf (s : State) : (outEnd s).gbuf = s.gbuf := rfl
@[simp] theorem outEnd_pbuf (s : State) : (outEnd s).pbuf = s.pbuf := rfl
@[simp] theorem outEnd_dhist (s : State) : (outEnd s).dhist = s.dhist := rfl
@[simp] theorem outEnd_pbufBytes (s : State) : (outEnd s).pbufBytes = s.pbufBytes := rfl
@[simp] theorem outEnd_outPend (s : State) : (outEnd s).outPend = s.outPend ++ [Beat.fin] := rfl
@[simp] theorem outEnd_received (s : State) : (outEnd s).received = s.received := rfl
@[simp] theorem outEnd_inq (s : State) : (outEnd s).inq = s.inq := rfl
@[simp] theorem outEnd_inTaken (s : State) : (outEnd s).inTaken = s.inTaken := rfl
@[simp] theorem outEnd_outReady (s : State) : (outEnd s).outReady = s.outReady := rfl
@[simp] theorem outEnd_regAddr (s : State) : (outEnd s).regAddr = s.regAddr := rfl
@[simp] theorem outEnd_script (s : State) : (outEnd s).script = s.script := rfl

/-! ### `finishOp` -/

@[simp] theorem finishOp_ctrl (s : State) : (finishOp s).ctrl = s.ctrl := rfl
@[simp] theorem finishOp_status (s : State) : (finishOp s).status = statusDone (statusGeom (zeroGeometry s) s.status) := rfl
@[simp] theorem finishOp_width (s : State) : (finishOp s).width = s.width := rfl
@[simp] theorem finishOp_height (s : State) : (finishOp s).height = s.height := rfl
@[simp] theorem finishOp_frameRate (s : State) : (finishOp s).frameRate = s.frameRate := rfl
@[simp] theorem finishOp_frameCount (s : State) : (finishOp s).frameCount = s.frameCount := rfl
@[simp] theorem finishOp_totalLo (s : State) : (finishOp s).totalLo = s.totalLo := rfl
@[simp] theorem finishOp_totalHi (s : State) : (finishOp s).totalHi = s.totalHi := rfl
@[simp] theorem finishOp_fidx (s : State) : (finishOp s).fidx = if s.cfg.op = .vidFrame then s.fidx + 1 else s.fidx := rfl
@[simp] theorem finishOp_cfg (s : State) : (finishOp s).cfg = s.cfg := rfl
@[simp] theorem finishOp_rlu (s : State) : (finishOp s).rlu = s.rlu := rfl
@[simp] theorem finishOp_lzc (s : State) : (finishOp s).lzc = s.lzc := rfl
@[simp] theorem finishOp_fra (s : State) : (finishOp s).fra = s.fra := rfl
@[simp] theorem finishOp_fpr (s : State) : (finishOp s).fpr = s.fpr := rfl
@[simp] theorem finishOp_lzd (s : State) : (finishOp s).lzd = s.lzd := rfl
@[simp] theorem finishOp_rld (s : State) : (finishOp s).rld = s.rld := rfl
@[simp] theorem finishOp_hbuf (s : State) : (finishOp s).hbuf = s.hbuf := rfl
@[simp] theorem finishOp_gbuf (s : State) : (finishOp s).gbuf = s.gbuf := rfl
@[simp] theorem finishOp_pbuf (s : State) : (finishOp s).pbuf = s.pbuf := rfl
@[simp] theorem finishOp_dhist (s : State) : (finishOp s).dhist = s.dhist := rfl
@[simp] theorem finishOp_pbufBytes (s : State) : (finishOp s).pbufBytes = s.pbufBytes := rfl
@[simp] theorem finishOp_outPend (s : State) : (finishOp s).outPend = s.outPend := rfl
@[simp] theorem finishOp_received (s : State) : (finishOp s).received = s.received := rfl
@[simp] theorem finishOp_inq (s : State) : (finishOp s).inq = s.inq := rfl
@[simp] theorem finishOp_inTaken (s : State) : (finishOp s).inTaken = s.inTaken := rfl
@[simp] theorem finishOp_outReady (s : State) : (finishOp s).outReady = s.outReady := rfl
@[simp] theorem finishOp_regAddr (s : State) : (finishOp s).regAddr = s.regAddr := rfl
@[simp] theorem finishOp_script (s : State) : (finishOp s).script = s.script := rfl

/-! ### `raiseExc` -/

@[simp] theorem raiseExc_ctrl (e : Exc) (s : State) : (raiseExc e s).ctrl = s.ctrl := rfl
@[simp] theorem raiseExc_status (e : Exc) (s : State) : (raiseExc e s).status = statusErr e.code s.status := rfl
@[simp] theorem raiseExc_width (e : Exc) (s : State) : (raiseExc e s).width = s.width := rfl
@[simp] theorem raiseExc_height (e : Exc) (s : State) : (raiseExc e s).height = s.height := rfl
@[simp] theorem raiseExc_frameRate (e : Exc) (s : State) : (raiseExc e s).frameRate = s.frameRate := rfl
@[simp] theorem raiseExc_frameCount (e : Exc) (s : State) : (raiseExc e s).frameCount = s.frameCount := rfl
@[simp] theorem raiseExc_totalLo (e : Exc) (s : State) : (raiseExc e s).totalLo = s.totalLo := rfl
@[simp] theorem raiseExc_totalHi (e : Exc) (s : State) : (raiseExc e s).totalHi = s.totalHi := rfl
@[simp] theorem raiseExc_fidx (e : Exc) (s : State) : (raiseExc e s).fidx = s.fidx := rfl
@[simp] theorem raiseExc_cfg (e : Exc) (s : State) : (raiseExc e s).cfg = s.cfg := rfl
@[simp] theorem raiseExc_rlu (e : Exc) (s : State) : (raiseExc e s).rlu = s.rlu := rfl
@[simp] theorem raiseExc_lzc (e : Exc) (s : State) : (raiseExc e s).lzc = s.lzc := rfl
@[simp] theorem raiseExc_fra (e : Exc) (s : State) : (raiseExc e s).fra = s.fra := rfl
@[simp] theorem raiseExc_fpr (e : Exc) (s : State) : (raiseExc e s).fpr = s.fpr := rfl
@[simp] theorem raiseExc_lzd (e : Exc) (s : State) : (raiseExc e s).lzd = s.lzd := rfl
@[simp] theorem raiseExc_rld (e : Exc) (s : State) : (raiseExc e s).rld = s.rld := rfl
@[simp] theorem raiseExc_hbuf (e : Exc) (s : State) : (raiseExc e s).hbuf = s.hbuf := rfl
@[simp] theorem raiseExc_gbuf (e : Exc) (s : State) : (raiseExc e s).gbuf = s.gbuf := rfl
@[simp] theorem raiseExc_pbuf (e : Exc) (s : State) : (raiseExc e s).pbuf = s.pbuf := rfl
@[simp] theorem raiseExc_dhist (e : Exc) (s : State) : (raiseExc e s).dhist = s.dhist := rfl
@[simp] theorem raiseExc_pbufBytes (e : Exc) (s : State) : (raiseExc e s).pbufBytes = s.pbufBytes := rfl
@[simp] theorem raiseExc_outPend (e : Exc) (s : State) : (raiseExc e s).outPend = s.outPend := rfl
@[simp] theorem raiseExc_received (e : Exc) (s : State) : (raiseExc e s).received = s.received := rfl
@[simp] theorem raiseExc_inq (e : Exc) (s : State) : (raiseExc e s).inq = s.inq := rfl
@[simp] theorem raiseExc_inTaken (e : Exc) (s : State) : (raiseExc e s).inTaken = s.inTaken := rfl
@[simp] theorem raiseExc_outReady (e : Exc) (s : State) : (raiseExc e s).outReady = s.outReady := rfl
@[simp] theorem raiseExc_regAddr (e : Exc) (s : State) : (raiseExc e s).regAddr = s.regAddr := rfl
@[simp] theorem raiseExc_script (e : Exc) (s : State) : (raiseExc e s).script = s.script := rfl

/-! ### `fprStage` -/

@[simp] theorem fprStage_ctrl (b : Byte) (s : State) : (fprStage b s).ctrl = s.ctrl := rfl
@[simp] theorem fprStage_status (b : Byte) (s : State) : (fprStage b s).status = s.status := rfl
@[simp] theorem fprStage_width (b : Byte) (s : State) : (fprStage b s).width = s.width := rfl
@[simp] theorem fprStage_height (b : Byte) (s : State) : (fprStage b s).height = s.height := rfl
@[simp] theorem fprStage_frameRate (b : Byte) (s : State) : (fprStage b s).frameRate = s.frameRate := rfl
@[simp] theorem fprStage_frameCount (b : Byte) (s : State) : (fprStage b s).frameCount = s.frameCount := rfl
@[simp] theorem fprStage_totalLo (b : Byte) (s : State) : (fprStage b s).totalLo = s.totalLo := rfl
@[simp] theorem fprStage_totalHi (b : Byte) (s : State) : (fprStage b s).totalHi = s.totalHi := rfl
@[simp] theorem fprStage_fidx (b : Byte) (s : State) : (fprStage b s).fidx = s.fidx := rfl
@[simp] theorem fprStage_cfg (b : Byte) (s : State) : (fprStage b s).cfg = s.cfg := rfl
@[simp] theorem fprStage_rlu (b : Byte) (s : State) : (fprStage b s).rlu = s.rlu := rfl
@[simp] theorem fprStage_lzc (b : Byte) (s : State) : (fprStage b s).lzc = s.lzc := rfl
@[simp] theorem fprStage_fra (b : Byte) (s : State) : (fprStage b s).fra = s.fra := rfl
@[simp] theorem fprStage_fpr (b : Byte) (s : State) : (fprStage b s).fpr = { s.fpr with stage := s.fpr.stage ++ [b], hcnt := s.fpr.hcnt + 1 } := rfl
@[simp] theorem fprStage_lzd (b : Byte) (s : State) : (fprStage b s).lzd = s.lzd := rfl
@[simp] theorem fprStage_rld (b : Byte) (s : State) : (fprStage b s).rld = s.rld := rfl
@[simp] theorem fprStage_hbuf (b : Byte) (s : State) : (fprStage b s).hbuf = s.hbuf := rfl
@[simp] theorem fprStage_gbuf (b : Byte) (s : State) : (fprStage b s).gbuf = s.gbuf := rfl
@[simp] theorem fprStage_pbuf (b : Byte) (s : State) : (fprStage b s).pbuf = s.pbuf := rfl
@[simp] theorem fprStage_dhist (b : Byte) (s : State) : (fprStage b s).dhist = s.dhist := rfl
@[simp] theorem fprStage_pbufBytes (b : Byte) (s : State) : (fprStage b s).pbufBytes = s.pbufBytes := rfl
@[simp] theorem fprStage_outPend (b : Byte) (s : State) : (fprStage b s).outPend = s.outPend := rfl
@[simp] theorem fprStage_received (b : Byte) (s : State) : (fprStage b s).received = s.received := rfl
@[simp] theorem fprStage_inq (b : Byte) (s : State) : (fprStage b s).inq = s.inq := rfl
@[simp] theorem fprStage_inTaken (b : Byte) (s : State) : (fprStage b s).inTaken = s.inTaken := rfl
@[simp] theorem fprStage_outReady (b : Byte) (s : State) : (fprStage b s).outReady = s.outReady := rfl
@[simp] theorem fprStage_regAddr (b : Byte) (s : State) : (fprStage b s).regAddr = s.regAddr := rfl
@[simp] theorem fprStage_script (b : Byte) (s : State) : (fprStage b s).script = s.script := rfl

/-! ### `lzcInputEnd` -/

@[simp] theorem lzcInputEnd_ctrl (s : State) : (lzcInputEnd s).ctrl = s.ctrl := rfl
@[simp] theorem lzcInputEnd_status (s : State) : (lzcInputEnd s).status = s.status := rfl
@[simp] theorem lzcInputEnd_width (s : State) : (lzcInputEnd s).width = s.width := rfl
@[simp] theorem lzcInputEnd_height (s : State) : (lzcInputEnd s).height = s.height := rfl
@[simp] theorem lzcInputEnd_frameRate (s : State) : (lzcInputEnd s).frameRate = s.frameRate := rfl
@[simp] theorem lzcInputEnd_frameCount (s : State) : (lzcInputEnd s).frameCount = s.frameCount := rfl
@[simp] theorem lzcInputEnd_totalLo (s : State) : (lzcInputEnd s).totalLo = s.totalLo := rfl
@[simp] theorem lzcInputEnd_totalHi (s : State) : (lzcInputEnd s).totalHi = s.totalHi := rfl
@[simp] theorem lzcInputEnd_fidx (s : State) : (lzcInputEnd s).fidx = s.fidx := rfl
@[simp] theorem lzcInputEnd_cfg (s : State) : (lzcInputEnd s).cfg = s.cfg := rfl
@[simp] theorem lzcInputEnd_rlu (s : State) : (lzcInputEnd s).rlu = s.rlu := rfl
@[simp] theorem lzcInputEnd_lzc (s : State) : (lzcInputEnd s).lzc = { s.lzc with eoi := true } := rfl
@[simp] theorem lzcInputEnd_fra (s : State) : (lzcInputEnd s).fra = s.fra := rfl
@[simp] theorem lzcInputEnd_fpr (s : State) : (lzcInputEnd s).fpr = s.fpr := rfl
@[simp] theorem lzcInputEnd_lzd (s : State) : (lzcInputEnd s).lzd = s.lzd := rfl
@[simp] theorem lzcInputEnd_rld (s : State) : (lzcInputEnd s).rld = s.rld := rfl
@[simp] theorem lzcInputEnd_hbuf (s : State) : (lzcInputEnd s).hbuf = s.hbuf := rfl
@[simp] theorem lzcInputEnd_gbuf (s : State) : (lzcInputEnd s).gbuf = s.gbuf := rfl
@[simp] theorem lzcInputEnd_pbuf (s : State) : (lzcInputEnd s).pbuf = s.pbuf := rfl
@[simp] theorem lzcInputEnd_dhist (s : State) : (lzcInputEnd s).dhist = s.dhist := rfl
@[simp] theorem lzcInputEnd_pbufBytes (s : State) : (lzcInputEnd s).pbufBytes = s.pbufBytes := rfl
@[simp] theorem lzcInputEnd_outPend (s : State) : (lzcInputEnd s).outPend = s.outPend := rfl
@[simp] theorem lzcInputEnd_received (s : State) : (lzcInputEnd s).received = s.received := rfl
@[simp] theorem lzcInputEnd_inq (s : State) : (lzcInputEnd s).inq = s.inq := rfl
@[simp] theorem lzcInputEnd_inTaken (s : State) : (lzcInputEnd s).inTaken = s.inTaken := rfl
@[simp] theorem lzcInputEnd_outReady (s : State) : (lzcInputEnd s).outReady = s.outReady := rfl
@[simp] theorem lzcInputEnd_regAddr (s : State) : (lzcInputEnd s).regAddr = s.regAddr := rfl
@[simp] theorem lzcInputEnd_script (s : State) : (lzcInputEnd s).script = s.script := rfl

/-! ### `lzcGroupReset` -/

@[simp] theorem lzcGroupReset_ctrl (s : State) : (lzcGroupReset s).ctrl = s.ctrl := rfl
@[simp] theorem lzcGroupReset_status (s : State) : (lzcGroupReset s).status = s.status := rfl
@[simp] theorem lzcGroupReset_width (s : State) : (lzcGroupReset s).width = s.width := rfl
@[simp] theorem lzcGroupReset_height (s : State) : (lzcGroupReset s).height = s.height := rfl
@[simp] theorem lzcGroupReset_frameRate (s : State) : (lzcGroupReset s).frameRate = s.frameRate := rfl
@[simp] theorem lzcGroupReset_frameCount (s : State) : (lzcGroupReset s).frameCount = s.frameCount := rfl
@[simp] theorem lzcGroupReset_totalLo (s : State) : (lzcGroupReset s).totalLo = s.totalLo := rfl
@[simp] theorem lzcGroupReset_totalHi (s : State) : (lzcGroupReset s).totalHi = s.totalHi := rfl
@[simp] theorem lzcGroupReset_fidx (s : State) : (lzcGroupReset s).fidx = s.fidx := rfl
@[simp] theorem lzcGroupReset_cfg (s : State) : (lzcGroupReset s).cfg = s.cfg := rfl
@[simp] theorem lzcGroupReset_rlu (s : State) : (lzcGroupReset s).rlu = s.rlu := rfl
@[simp] theorem lzcGroupReset_lzc (s : State) : (lzcGroupReset s).lzc = { s.lzc with flag := 0, t := 0, glen := 0 } := rfl
@[simp] theorem lzcGroupReset_fra (s : State) : (lzcGroupReset s).fra = s.fra := rfl
@[simp] theorem lzcGroupReset_fpr (s : State) : (lzcGroupReset s).fpr = s.fpr := rfl
@[simp] theorem lzcGroupReset_lzd (s : State) : (lzcGroupReset s).lzd = s.lzd := rfl
@[simp] theorem lzcGroupReset_rld (s : State) : (lzcGroupReset s).rld = s.rld := rfl
@[simp] theorem lzcGroupReset_hbuf (s : State) : (lzcGroupReset s).hbuf = s.hbuf := rfl
@[simp] theorem lzcGroupReset_gbuf (s : State) : (lzcGroupReset s).gbuf = [] := rfl
@[simp] theorem lzcGroupReset_pbuf (s : State) : (lzcGroupReset s).pbuf = s.pbuf := rfl
@[simp] theorem lzcGroupReset_dhist (s : State) : (lzcGroupReset s).dhist = s.dhist := rfl
@[simp] theorem lzcGroupReset_pbufBytes (s : State) : (lzcGroupReset s).pbufBytes = s.pbufBytes := rfl
@[simp] theorem lzcGroupReset_outPend (s : State) : (lzcGroupReset s).outPend = s.outPend := rfl
@[simp] theorem lzcGroupReset_received (s : State) : (lzcGroupReset s).received = s.received := rfl
@[simp] theorem lzcGroupReset_inq (s : State) : (lzcGroupReset s).inq = s.inq := rfl
@[simp] theorem lzcGroupReset_inTaken (s : State) : (lzcGroupReset s).inTaken = s.inTaken := rfl
@[simp] theorem lzcGroupReset_outReady (s : State) : (lzcGroupReset s).outReady = s.outReady := rfl
@[simp] theorem lzcGroupReset_regAddr (s : State) : (lzcGroupReset s).regAddr = s.regAddr := rfl
@[simp] theorem lzcGroupReset_script (s : State) : (lzcGroupReset s).script = s.script := rfl

/-! ### `lzdTokenDone` -/

@[simp] theorem lzdTokenDone_ctrl (s : State) : (lzdTokenDone s).ctrl = s.ctrl := rfl
@[simp] theorem lzdTokenDone_status (s : State) : (lzdTokenDone s).status = s.status := rfl
@[simp] theorem lzdTokenDone_width (s : State) : (lzdTokenDone s).width = s.width := rfl
@[simp] theorem lzdTokenDone_height (s : State) : (lzdTokenDone s).height = s.height := rfl
@[simp] theorem lzdTokenDone_frameRate (s : State) : (lzdTokenDone s).frameRate = s.frameRate := rfl
@[simp] theorem lzdTokenDone_frameCount (s : State) : (lzdTokenDone s).frameCount = s.frameCount := rfl
@[simp] theorem lzdTokenDone_totalLo (s : State) : (lzdTokenDone s).totalLo = s.totalLo := rfl
@[simp] theorem lzdTokenDone_totalHi (s : State) : (lzdTokenDone s).totalHi = s.totalHi := rfl
@[simp] theorem lzdTokenDone_fidx (s : State) : (lzdTokenDone s).fidx = s.fidx := rfl
@[simp] theorem lzdTokenDone_cfg (s : State) : (lzdTokenDone s).cfg = s.cfg := rfl
@[simp] theorem lzdTokenDone_rlu (s : State) : (lzdTokenDone s).rlu = s.rlu := rfl
@[simp] theorem lzdTokenDone_lzc (s : State) : (lzdTokenDone s).lzc = s.lzc := rfl
@[simp] theorem lzdTokenDone_fra (s : State) : (lzdTokenDone s).fra = s.fra := rfl
@[simp] theorem lzdTokenDone_fpr (s : State) : (lzdTokenDone s).fpr = s.fpr := rfl
@[simp] theorem lzdTokenDone_lzd (s : State) : (lzdTokenDone s).lzd = { s.lzd with t := s.lzd.t + 1, phase := if s.lzd.t + 1 = Config.group then .flag else .token, tok := [] } := rfl
@[simp] theorem lzdTokenDone_rld (s : State) : (lzdTokenDone s).rld = s.rld := rfl
@[simp] theorem lzdTokenDone_hbuf (s : State) : (lzdTokenDone s).hbuf = s.hbuf := rfl
@[simp] theorem lzdTokenDone_gbuf (s : State) : (lzdTokenDone s).gbuf = s.gbuf := rfl
@[simp] theorem lzdTokenDone_pbuf (s : State) : (lzdTokenDone s).pbuf = s.pbuf := rfl
@[simp] theorem lzdTokenDone_dhist (s : State) : (lzdTokenDone s).dhist = s.dhist := rfl
@[simp] theorem lzdTokenDone_pbufBytes (s : State) : (lzdTokenDone s).pbufBytes = s.pbufBytes := rfl
@[simp] theorem lzdTokenDone_outPend (s : State) : (lzdTokenDone s).outPend = s.outPend := rfl
@[simp] theorem lzdTokenDone_received (s : State) : (lzdTokenDone s).received = s.received := rfl
@[simp] theorem lzdTokenDone_inq (s : State) : (lzdTokenDone s).inq = s.inq := rfl
@[simp] theorem lzdTokenDone_inTaken (s : State) : (lzdTokenDone s).inTaken = s.inTaken := rfl
@[simp] theorem lzdTokenDone_outReady (s : State) : (lzdTokenDone s).outReady = s.outReady := rfl
@[simp] theorem lzdTokenDone_regAddr (s : State) : (lzdTokenDone s).regAddr = s.regAddr := rfl
@[simp] theorem lzdTokenDone_script (s : State) : (lzdTokenDone s).script = s.script := rfl

/-! ### `rldInputEnd` -/

@[simp] theorem rldInputEnd_ctrl (s : State) : (rldInputEnd s).ctrl = s.ctrl := rfl
@[simp] theorem rldInputEnd_status (s : State) : (rldInputEnd s).status = s.status := rfl
@[simp] theorem rldInputEnd_width (s : State) : (rldInputEnd s).width = s.width := rfl
@[simp] theorem rldInputEnd_height (s : State) : (rldInputEnd s).height = s.height := rfl
@[simp] theorem rldInputEnd_frameRate (s : State) : (rldInputEnd s).frameRate = s.frameRate := rfl
@[simp] theorem rldInputEnd_frameCount (s : State) : (rldInputEnd s).frameCount = s.frameCount := rfl
@[simp] theorem rldInputEnd_totalLo (s : State) : (rldInputEnd s).totalLo = s.totalLo := rfl
@[simp] theorem rldInputEnd_totalHi (s : State) : (rldInputEnd s).totalHi = s.totalHi := rfl
@[simp] theorem rldInputEnd_fidx (s : State) : (rldInputEnd s).fidx = s.fidx := rfl
@[simp] theorem rldInputEnd_cfg (s : State) : (rldInputEnd s).cfg = s.cfg := rfl
@[simp] theorem rldInputEnd_rlu (s : State) : (rldInputEnd s).rlu = s.rlu := rfl
@[simp] theorem rldInputEnd_lzc (s : State) : (rldInputEnd s).lzc = s.lzc := rfl
@[simp] theorem rldInputEnd_fra (s : State) : (rldInputEnd s).fra = s.fra := rfl
@[simp] theorem rldInputEnd_fpr (s : State) : (rldInputEnd s).fpr = if s.cfg.op.lzdFeedsRld then { s.fpr with phase := .fin } else s.fpr := rfl
@[simp] theorem rldInputEnd_lzd (s : State) : (rldInputEnd s).lzd = s.lzd := rfl
@[simp] theorem rldInputEnd_rld (s : State) : (rldInputEnd s).rld = { s.rld with ending := true } := rfl
@[simp] theorem rldInputEnd_hbuf (s : State) : (rldInputEnd s).hbuf = s.hbuf := rfl
@[simp] theorem rldInputEnd_gbuf (s : State) : (rldInputEnd s).gbuf = s.gbuf := rfl
@[simp] theorem rldInputEnd_pbuf (s : State) : (rldInputEnd s).pbuf = s.pbuf := rfl
@[simp] theorem rldInputEnd_dhist (s : State) : (rldInputEnd s).dhist = s.dhist := rfl
@[simp] theorem rldInputEnd_pbufBytes (s : State) : (rldInputEnd s).pbufBytes = s.pbufBytes := rfl
@[simp] theorem rldInputEnd_outPend (s : State) : (rldInputEnd s).outPend = s.outPend := rfl
@[simp] theorem rldInputEnd_received (s : State) : (rldInputEnd s).received = s.received := rfl
@[simp] theorem rldInputEnd_inq (s : State) : (rldInputEnd s).inq = s.inq := rfl
@[simp] theorem rldInputEnd_inTaken (s : State) : (rldInputEnd s).inTaken = s.inTaken := rfl
@[simp] theorem rldInputEnd_outReady (s : State) : (rldInputEnd s).outReady = s.outReady := rfl
@[simp] theorem rldInputEnd_regAddr (s : State) : (rldInputEnd s).regAddr = s.regAddr := rfl
@[simp] theorem rldInputEnd_script (s : State) : (rldInputEnd s).script = s.script := rfl

/-! ### `initEncoders` -/

@[simp] theorem initEncoders_ctrl (s : State) : (initEncoders s).ctrl = s.ctrl := rfl
@[simp] theorem initEncoders_status (s : State) : (initEncoders s).status = s.status := rfl
@[simp] theorem initEncoders_width (s : State) : (initEncoders s).width = s.width := rfl
@[simp] theorem initEncoders_height (s : State) : (initEncoders s).height = s.height := rfl
@[simp] theorem initEncoders_frameRate (s : State) : (initEncoders s).frameRate = s.frameRate := rfl
@[simp] theorem initEncoders_frameCount (s : State) : (initEncoders s).frameCount = s.frameCount := rfl
@[simp] theorem initEncoders_totalLo (s : State) : (initEncoders s).totalLo = s.totalLo := rfl
@[simp] theorem initEncoders_totalHi (s : State) : (initEncoders s).totalHi = s.totalHi := rfl
@[simp] theorem initEncoders_fidx (s : State) : (initEncoders s).fidx = s.fidx := rfl
@[simp] theorem initEncoders_cfg (s : State) : (initEncoders s).cfg = s.cfg := rfl
@[simp] theorem initEncoders_rlu (s : State) : (initEncoders s).rlu = Rlu.init := rfl
@[simp] theorem initEncoders_lzc (s : State) : (initEncoders s).lzc = Lzc.init := rfl
@[simp] theorem initEncoders_fra (s : State) : (initEncoders s).fra = s.fra := rfl
@[simp] theorem initEncoders_fpr (s : State) : (initEncoders s).fpr = s.fpr := rfl
@[simp] theorem initEncoders_lzd (s : State) : (initEncoders s).lzd = s.lzd := rfl
@[simp] theorem initEncoders_rld (s : State) : (initEncoders s).rld = s.rld := rfl
@[simp] theorem initEncoders_hbuf (s : State) : (initEncoders s).hbuf = [] := rfl
@[simp] theorem initEncoders_gbuf (s : State) : (initEncoders s).gbuf = [] := rfl
@[simp] theorem initEncoders_pbuf (s : State) : (initEncoders s).pbuf = s.pbuf := rfl
@[simp] theorem initEncoders_dhist (s : State) : (initEncoders s).dhist = s.dhist := rfl
@[simp] theorem initEncoders_pbufBytes (s : State) : (initEncoders s).pbufBytes = s.pbufBytes := rfl
@[simp] theorem initEncoders_outPend (s : State) : (initEncoders s).outPend = s.outPend := rfl
@[simp] theorem initEncoders_received (s : State) : (initEncoders s).received = s.received := rfl
@[simp] theorem initEncoders_inq (s : State) : (initEncoders s).inq = s.inq := rfl
@[simp] theorem initEncoders_inTaken (s : State) : (initEncoders s).inTaken = s.inTaken := rfl
@[simp] theorem initEncoders_outReady (s : State) : (initEncoders s).outReady = s.outReady := rfl
@[simp] theorem initEncoders_regAddr (s : State) : (initEncoders s).regAddr = s.regAddr := rfl
@[simp] theorem initEncoders_script (s : State) : (initEncoders s).script = s.script := rfl

/-! ### `fraHeader` -/

@[simp] theorem fraHeader_ctrl (bs : List Byte) (p : FraPhase) (s : State) : (fraHeader bs p s).ctrl = s.ctrl := rfl
@[simp] theorem fraHeader_status (bs : List Byte) (p : FraPhase) (s : State) : (fraHeader bs p s).status = s.status := rfl
@[simp] theorem fraHeader_width (bs : List Byte) (p : FraPhase) (s : State) : (fraHeader bs p s).width = s.width := rfl
@[simp] theorem fraHeader_height (bs : List Byte) (p : FraPhase) (s : State) : (fraHeader bs p s).height = s.height := rfl
@[simp] theorem fraHeader_frameRate (bs : List Byte) (p : FraPhase) (s : State) : (fraHeader bs p s).frameRate = s.frameRate := rfl
@[simp] theorem fraHeader_frameCount (bs : List Byte) (p : FraPhase) (s : State) : (fraHeader bs p s).frameCount = s.frameCount := rfl
@[simp] theorem fraHeader_totalLo (bs : List Byte) (p : FraPhase) (s : State) : (fraHeader bs p s).totalLo = s.totalLo := rfl
@[simp] theorem fraHeader_totalHi (bs : List Byte) (p : FraPhase) (s : State) : (fraHeader bs p s).totalHi = s.totalHi := rfl
@[simp] theorem fraHeader_fidx (bs : List Byte) (p : FraPhase) (s : State) : (fraHeader bs p s).fidx = s.fidx := rfl
@[simp] theorem fraHeader_cfg (bs : List Byte) (p : FraPhase) (s : State) : (fraHeader bs p s).cfg = s.cfg := rfl
@[simp] theorem fraHeader_rlu (bs : List Byte) (p : FraPhase) (s : State) : (fraHeader bs p s).rlu = s.rlu := rfl
@[simp] theorem fraHeader_lzc (bs : List Byte) (p : FraPhase) (s : State) : (fraHeader bs p s).lzc = s.lzc := rfl
@[simp] theorem fraHeader_fra (bs : List Byte) (p : FraPhase) (s : State) : (fraHeader bs p s).fra = { s.fra with hcnt := bs.length, phase := p } := rfl
@[simp] theorem fraHeader_fpr (bs : List Byte) (p : FraPhase) (s : State) : (fraHeader bs p s).fpr = s.fpr := rfl
@[simp] theorem fraHeader_lzd (bs : List Byte) (p : FraPhase) (s : State) : (fraHeader bs p s).lzd = s.lzd := rfl
@[simp] theorem fraHeader_rld (bs : List Byte) (p : FraPhase) (s : State) : (fraHeader bs p s).rld = s.rld := rfl
@[simp] theorem fraHeader_hbuf (bs : List Byte) (p : FraPhase) (s : State) : (fraHeader bs p s).hbuf = s.hbuf := rfl
@[simp] theorem fraHeader_gbuf (bs : List Byte) (p : FraPhase) (s : State) : (fraHeader bs p s).gbuf = s.gbuf := rfl
@[simp] theorem fraHeader_pbuf (bs : List Byte) (p : FraPhase) (s : State) : (fraHeader bs p s).pbuf = s.pbuf := rfl
@[simp] theorem fraHeader_dhist (bs : List Byte) (p : FraPhase) (s : State) : (fraHeader bs p s).dhist = s.dhist := rfl
@[simp] theorem fraHeader_pbufBytes (bs : List Byte) (p : FraPhase) (s : State) : (fraHeader bs p s).pbufBytes = s.pbufBytes := rfl
@[simp] theorem fraHeader_outPend (bs : List Byte) (p : FraPhase) (s : State) : (fraHeader bs p s).outPend = s.outPend ++ bs.map Beat.data := rfl
@[simp] theorem fraHeader_received (bs : List Byte) (p : FraPhase) (s : State) : (fraHeader bs p s).received = s.received := rfl
@[simp] theorem fraHeader_inq (bs : List Byte) (p : FraPhase) (s : State) : (fraHeader bs p s).inq = s.inq := rfl
@[simp] theorem fraHeader_inTaken (bs : List Byte) (p : FraPhase) (s : State) : (fraHeader bs p s).inTaken = s.inTaken := rfl
@[simp] theorem fraHeader_outReady (bs : List Byte) (p : FraPhase) (s : State) : (fraHeader bs p s).outReady = s.outReady := rfl
@[simp] theorem fraHeader_regAddr (bs : List Byte) (p : FraPhase) (s : State) : (fraHeader bs p s).regAddr = s.regAddr := rfl
@[simp] theorem fraHeader_script (bs : List Byte) (p : FraPhase) (s : State) : (fraHeader bs p s).script = s.script := rfl

/-! ### `fraFrameDone` -/

@[simp] theorem fraFrameDone_ctrl (s : State) : (fraFrameDone s).ctrl = s.ctrl := rfl
@[simp] theorem fraFrameDone_status (s : State) : (fraFrameDone s).status = s.status := rfl
@[simp] theorem fraFrameDone_width (s : State) : (fraFrameDone s).width = s.width := rfl
@[simp] theorem fraFrameDone_height (s : State) : (fraFrameDone s).height = s.height := rfl
@[simp] theorem fraFrameDone_frameRate (s : State) : (fraFrameDone s).frameRate = s.frameRate := rfl
@[simp] theorem fraFrameDone_frameCount (s : State) : (fraFrameDone s).frameCount = s.frameCount := rfl
@[simp] theorem fraFrameDone_totalLo (s : State) : (fraFrameDone s).totalLo = s.totalLo := rfl
@[simp] theorem fraFrameDone_totalHi (s : State) : (fraFrameDone s).totalHi = s.totalHi := rfl
@[simp] theorem fraFrameDone_fidx (s : State) : (fraFrameDone s).fidx = s.fidx + 1 := rfl
@[simp] theorem fraFrameDone_cfg (s : State) : (fraFrameDone s).cfg = s.cfg := rfl
@[simp] theorem fraFrameDone_rlu (s : State) : (fraFrameDone s).rlu = Rlu.init := rfl
@[simp] theorem fraFrameDone_lzc (s : State) : (fraFrameDone s).lzc = Lzc.init := rfl
@[simp] theorem fraFrameDone_fra (s : State) : (fraFrameDone s).fra = { s.fra with plen := 0, pout := 0, phase := fraNext (s.fidx + 1) s.cfg.count } := rfl
@[simp] theorem fraFrameDone_fpr (s : State) : (fraFrameDone s).fpr = s.fpr := rfl
@[simp] theorem fraFrameDone_lzd (s : State) : (fraFrameDone s).lzd = s.lzd := rfl
@[simp] theorem fraFrameDone_rld (s : State) : (fraFrameDone s).rld = s.rld := rfl
@[simp] theorem fraFrameDone_hbuf (s : State) : (fraFrameDone s).hbuf = [] := rfl
@[simp] theorem fraFrameDone_gbuf (s : State) : (fraFrameDone s).gbuf = [] := rfl
@[simp] theorem fraFrameDone_pbuf (s : State) : (fraFrameDone s).pbuf = [] := rfl
@[simp] theorem fraFrameDone_dhist (s : State) : (fraFrameDone s).dhist = s.dhist := rfl
@[simp] theorem fraFrameDone_pbufBytes (s : State) : (fraFrameDone s).pbufBytes = s.pbufBytes := rfl
@[simp] theorem fraFrameDone_outPend (s : State) : (fraFrameDone s).outPend = s.outPend := rfl
@[simp] theorem fraFrameDone_received (s : State) : (fraFrameDone s).received = s.received := rfl
@[simp] theorem fraFrameDone_inq (s : State) : (fraFrameDone s).inq = s.inq := rfl
@[simp] theorem fraFrameDone_inTaken (s : State) : (fraFrameDone s).inTaken = s.inTaken := rfl
@[simp] theorem fraFrameDone_outReady (s : State) : (fraFrameDone s).outReady = s.outReady := rfl
@[simp] theorem fraFrameDone_regAddr (s : State) : (fraFrameDone s).regAddr = s.regAddr := rfl
@[simp] theorem fraFrameDone_script (s : State) : (fraFrameDone s).script = s.script := rfl

/-! ### `resetBfc` -/

@[simp] theorem resetBfc_ctrl (s : State) : (resetBfc s).ctrl = State.reset.ctrl := rfl
@[simp] theorem resetBfc_status (s : State) : (resetBfc s).status = State.reset.status := rfl
@[simp] theorem resetBfc_width (s : State) : (resetBfc s).width = State.reset.width := rfl
@[simp] theorem resetBfc_height (s : State) : (resetBfc s).height = State.reset.height := rfl
@[simp] theorem resetBfc_frameRate (s : State) : (resetBfc s).frameRate = State.reset.frameRate := rfl
@[simp] theorem resetBfc_frameCount (s : State) : (resetBfc s).frameCount = State.reset.frameCount := rfl
@[simp] theorem resetBfc_totalLo (s : State) : (resetBfc s).totalLo = State.reset.totalLo := rfl
@[simp] theorem resetBfc_totalHi (s : State) : (resetBfc s).totalHi = State.reset.totalHi := rfl
@[simp] theorem resetBfc_fidx (s : State) : (resetBfc s).fidx = State.reset.fidx := rfl
@[simp] theorem resetBfc_cfg (s : State) : (resetBfc s).cfg = State.reset.cfg := rfl
@[simp] theorem resetBfc_rlu (s : State) : (resetBfc s).rlu = State.reset.rlu := rfl
@[simp] theorem resetBfc_lzc (s : State) : (resetBfc s).lzc = State.reset.lzc := rfl
@[simp] theorem resetBfc_fra (s : State) : (resetBfc s).fra = State.reset.fra := rfl
@[simp] theorem resetBfc_fpr (s : State) : (resetBfc s).fpr = State.reset.fpr := rfl
@[simp] theorem resetBfc_lzd (s : State) : (resetBfc s).lzd = State.reset.lzd := rfl
@[simp] theorem resetBfc_rld (s : State) : (resetBfc s).rld = State.reset.rld := rfl
@[simp] theorem resetBfc_hbuf (s : State) : (resetBfc s).hbuf = State.reset.hbuf := rfl
@[simp] theorem resetBfc_gbuf (s : State) : (resetBfc s).gbuf = State.reset.gbuf := rfl
@[simp] theorem resetBfc_pbuf (s : State) : (resetBfc s).pbuf = State.reset.pbuf := rfl
@[simp] theorem resetBfc_dhist (s : State) : (resetBfc s).dhist = State.reset.dhist := rfl
@[simp] theorem resetBfc_pbufBytes (s : State) : (resetBfc s).pbufBytes = s.pbufBytes := rfl
@[simp] theorem resetBfc_outPend (s : State) : (resetBfc s).outPend = State.reset.outPend := rfl
@[simp] theorem resetBfc_received (s : State) : (resetBfc s).received = s.received := rfl
@[simp] theorem resetBfc_inq (s : State) : (resetBfc s).inq = s.inq := rfl
@[simp] theorem resetBfc_inTaken (s : State) : (resetBfc s).inTaken = s.inTaken := rfl
@[simp] theorem resetBfc_outReady (s : State) : (resetBfc s).outReady = s.outReady := rfl
@[simp] theorem resetBfc_regAddr (s : State) : (resetBfc s).regAddr = s.regAddr := rfl
@[simp] theorem resetBfc_script (s : State) : (resetBfc s).script = s.script := rfl

end Sys2Proof.Machine
end

