-- ==== Sys2Proof/Laws/Operations.lean ====
section
/-! SUPPORT. For each shared operation, once, everything it can do. -/

namespace Sys2Proof.Machine

/-! ### Sequencing -/

@[simp] theorem andThen_next (s : State) (f : State → Result) : andThen (.next s) f = f s := rfl
@[simp] theorem andThen_fault (e : Fault) (f : State → Result) : andThen (.fault e) f = .fault e := rfl
@[simp] theorem andThen_refused (e : Refusal) (f : State → Result) : andThen (.refused e) f = .refused e := rfl

/-- A sequence answers a next state just when both parts do. -/
theorem andThen_eq_next {r : Result} {f : State → Result} {t : State} :
    andThen r f = .next t ↔ ∃ s, r = .next s ∧ f s = .next t := by
  cases r <;> simp

/-- A sequence faults just when one of its parts does. -/
theorem andThen_eq_fault {r : Result} {f : State → Result} {e : Fault} :
    andThen r f = .fault e ↔ r = .fault e ∨ ∃ s, r = .next s ∧ f s = .fault e := by
  cases r <;> simp

/-! ### Taking a beat -/

/-- What taking a beat can be: waiting without one, the data beat taken and counted, the end marker taken and the count at 0
again, or the refusal of a message that is not admitted (00_scope.md R16). -/
theorem takeIn_cases (s : State) (onData : Byte → State → Move) (onEnd : State → Move) :
    (s.inq = [] ∧ takeIn s onData onEnd = .wait) ∨
      (∃ b rest, s.inq = .data b :: rest ∧ s.inTaken + 1 < Config.posLimit ∧
        takeIn s onData onEnd = onData b { s with inq := rest, inTaken := s.inTaken + 1 }) ∨
      (∃ b rest, s.inq = .data b :: rest ∧ Config.posLimit ≤ s.inTaken + 1 ∧
        takeIn s onData onEnd = .unit (.refused .messageTooLong)) ∨
      ∃ rest, s.inq = .fin :: rest ∧ takeIn s onData onEnd = onEnd { s with inq := rest, inTaken := 0 } := by
  unfold takeIn
  split
  · rename_i h; exact .inl ⟨h, rfl⟩
  · rename_i b rest h
    split
    · rename_i hlt; exact .inr (.inl ⟨b, rest, h, hlt, rfl⟩)
    · rename_i hge; exact .inr (.inr (.inl ⟨b, rest, h, Nat.le_of_not_lt hge, rfl⟩))
  · rename_i rest h; exact .inr (.inr (.inr ⟨rest, h, rfl⟩))

/-! ### PBUF -/

/-- Putting bytes into PBUF: if it answers next, they are written from `plen` on and counted, and they fit. -/
theorem pbufAppend_next {bs : List Byte} {s t : State} (h : pbufAppend bs s = .next t) :
    t = { s with pbuf := Memory.writeAll s.pbuf s.fra.plen bs, fra := { s.fra with plen := s.fra.plen + bs.length } } ∧
      (bs ≠ [] → s.fra.plen + bs.length ≤ s.pbufBytes ∧ s.fra.plen + bs.length < Config.blockLimit) := by
  induction bs generalizing s with
  | nil => cases h; exact ⟨rfl, fun h => absurd rfl h⟩
  | cons b bs ih =>
    simp only [pbufAppend] at h
    split at h
    · cases h
    · split at h
      · cases h
      · rename_i h1 h2
        obtain ⟨e, hfit⟩ := ih h
        subst e
        refine ⟨by simp [Memory.writeAll, Nat.add_assoc, Nat.add_comm 1], fun _ => ?_⟩
        cases bs with
        | nil => simp; omega
        | cons c cs =>
          have := hfit (by simp)
          simp only [List.length_cons] at this ⊢
          omega

/-- Putting bytes into PBUF: it answers next when they fit (00_scope.md R16). -/
theorem pbufAppend_fits {bs : List Byte} {s : State} (h1 : s.fra.plen + bs.length ≤ s.pbufBytes)
    (h2 : s.fra.plen + bs.length < Config.blockLimit) :
    pbufAppend bs s =
      .next { s with pbuf := Memory.writeAll s.pbuf s.fra.plen bs, fra := { s.fra with plen := s.fra.plen + bs.length } } := by
  induction bs generalizing s with
  | nil => rfl
  | cons b bs ih =>
    simp only [List.length_cons] at h1 h2
    have e1 : ¬s.pbufBytes ≤ s.fra.plen := by omega
    have e2 : ¬Config.blockLimit ≤ s.fra.plen + 1 := by omega
    simp only [pbufAppend, e1, e2, if_false]
    rw [ih (by simp only; omega) (by simp only; omega)]
    simp [Memory.writeAll, Nat.add_assoc, Nat.add_comm 1]

theorem pbufAppend_not_fault (bs : List Byte) (s : State) (e : Fault) : pbufAppend bs s ≠ .fault e := by
  induction bs generalizing s with
  | nil => simp [pbufAppend]
  | cons b bs ih =>
    simp only [pbufAppend]
    split
    · simp
    · split
      · simp
      · exact ih _

/-! ### LZC's input -/

/-- Storing input bytes: if it answers next, they are written from `nIn` on and counted, and the counter does not pass its
width. -/
theorem lzcStoreAll_next {bs : List Byte} {s t : State} (h : lzcStoreAll bs s = .next t) :
    t = { s with hbuf := Memory.writeAll s.hbuf s.lzc.nIn bs, lzc := { s.lzc with nIn := s.lzc.nIn + bs.length } } ∧
      (bs ≠ [] → s.lzc.nIn + bs.length < Config.posLimit) := by
  induction bs generalizing s with
  | nil => cases h; exact ⟨rfl, fun h => absurd rfl h⟩
  | cons b bs ih =>
    simp only [lzcStoreAll, lzcStore] at h
    split at h
    · rename_i h1
      simp only [andThen_next] at h
      obtain ⟨e, hfit⟩ := ih h
      subst e
      refine ⟨by simp [Memory.writeAll, Nat.add_assoc, Nat.add_comm 1], fun _ => ?_⟩
      cases bs with
      | nil => simpa using h1
      | cons c cs =>
        have := hfit (by simp)
        simp only [List.length_cons] at this ⊢
        omega
    · cases h

/-- Storing input bytes: it answers next when the counter does not pass its width (R16). -/
theorem lzcStoreAll_fits {bs : List Byte} {s : State} (h : s.lzc.nIn + bs.length < Config.posLimit) :
    lzcStoreAll bs s =
      .next { s with hbuf := Memory.writeAll s.hbuf s.lzc.nIn bs, lzc := { s.lzc with nIn := s.lzc.nIn + bs.length } } := by
  induction bs generalizing s with
  | nil => rfl
  | cons b bs ih =>
    simp only [List.length_cons] at h
    have e : s.lzc.nIn + 1 < Config.posLimit := by omega
    simp only [lzcStoreAll, lzcStore, e, if_true, andThen_next]
    rw [ih (by simp only; omega)]
    simp [Memory.writeAll, Nat.add_assoc, Nat.add_comm 1]

theorem lzcStoreAll_not_fault (bs : List Byte) (s : State) (e : Fault) : lzcStoreAll bs s ≠ .fault e := by
  induction bs generalizing s with
  | nil => simp [lzcStoreAll]
  | cons b bs ih =>
    simp only [lzcStoreAll, lzcStore]
    split
    · exact ih _
    · simp

/-! ### RLD and LZD -/

@[simp] theorem lzdPassAll_nil (s : State) : lzdPassAll [] s = s := by
  simp [lzdPassAll, rldBytes, outBytes]

/-- Passing bytes on one after the other. -/
theorem lzdPassAll_cons (b : Byte) (bs : List Byte) (s : State) :
    lzdPassAll (b :: bs) s = lzdPassAll bs (lzdPass b s) := by
  by_cases h : s.cfg.op.lzdFeedsRld = true
  · simp [lzdPassAll, lzdPass, rldBytes, h, outBytes]
  · simp [lzdPassAll, lzdPass, h, outBytes]

/-- Passing a byte on touches RLD and OUT only. -/
theorem lzdPass_with (b : Byte) (s : State) (m : Memory) (l : Lzd) :
    lzdPass b { s with dhist := m, lzd := l } = { lzdPass b s with dhist := m, lzd := l } := by
  simp only [lzdPass]
  split <;> rfl

/-- Passing bytes on touches RLD and OUT only. -/
theorem lzdPassAll_with (bs : List Byte) (s : State) (m : Memory) (l : Lzd) :
    lzdPassAll bs { s with dhist := m, lzd := l } = { lzdPassAll bs s with dhist := m, lzd := l } := by
  simp only [lzdPassAll]
  split <;> rfl

/-- Passing bytes on touches RLD and OUT only. -/
theorem lzdPassAll_lzd (bs : List Byte) (s : State) (l : Lzd) :
    lzdPassAll bs { s with lzd := l } = { lzdPassAll bs s with lzd := l } := by
  simp only [lzdPassAll]
  split <;> rfl

/-- Passing bytes on, by what is left unchanged. -/
theorem lzdPassAll_frame (bs : List Byte) (s : State) :
    lzdPassAll bs s = { s with rld := (lzdPassAll bs s).rld, outPend := (lzdPassAll bs s).outPend } := by
  simp only [lzdPassAll]
  split <;> rfl

/-- The output only grows, by at most `n` bytes. -/
theorem copyLoop_grows (n : Nat) (src : Int) (out : List Byte) :
    ∃ new, copyLoop n src out = out ++ new ∧ new.length ≤ n := by
  induction n generalizing src out with
  | zero => exact ⟨[], by simp [copyLoop]⟩
  | succ n ih =>
    simp only [copyLoop]
    split
    · exact ⟨[], by simp⟩
    · obtain ⟨new, e, hl⟩ := ih (src + 1) (out ++ (out.drop src.toNat).take 1)
      refine ⟨(out.drop src.toNat).take 1 ++ new, by rw [e]; simp, ?_⟩
      simp only [List.length_append, List.length_take]
      omega

/-- A copy that does not go on leaves the state as it is. -/
theorem lzdCopy_stop (s : State) (out : List Byte) (hm : s.dhist = Memory.ofBytes out)
    (hl : s.lzd.outLen = out.length) :
    s =
      { lzdPassAll (out.drop out.length) s with
        dhist := Memory.ofBytes out
        lzd := { s.lzd with outLen := out.length, k := s.lzd.k + (out.length - out.length) } } := by
  rw [List.drop_length, lzdPassAll_nil, Nat.sub_self, Nat.add_zero, ← hm, ← hl]

/-- The copy of LZD is the loop of R175 on the output so far: DHIST, the counters, and the bytes passed on. -/
theorem lzdCopy_eq (n : Nat) (s : State) (out : List Byte) (hm : s.dhist = Memory.ofBytes out)
    (hl : s.lzd.outLen = out.length) (hfit : (copyLoop n (s.lzd.start + s.lzd.k) out).length < Config.posLimit) :
    lzdCopy n s =
      .next
        { lzdPassAll ((copyLoop n (s.lzd.start + s.lzd.k) out).drop out.length) s with
          dhist := Memory.ofBytes (copyLoop n (s.lzd.start + s.lzd.k) out)
          lzd :=
            { s.lzd with
              outLen := (copyLoop n (s.lzd.start + s.lzd.k) out).length
              k := s.lzd.k + ((copyLoop n (s.lzd.start + s.lzd.k) out).length - out.length) } } := by
  induction n generalizing s out with
  | zero => exact congrArg _ (lzdCopy_stop s out hm hl)
  | succ n ih =>
    simp only [copyLoop] at hfit ⊢
    simp only [lzdCopy, hl]
    split
    · exact congrArg _ (lzdCopy_stop s out hm hl)
    · rename_i hin
      rw [if_neg hin] at hfit
      have hlt : (s.lzd.start + s.lzd.k).toNat < out.length := by omega
      have hone : (out.drop (s.lzd.start + s.lzd.k).toNat).take 1 = [out[(s.lzd.start + s.lzd.k).toNat]] := by
        rw [List.take_one_drop_eq_of_lt_length hlt]; rfl
      rw [hone] at hfit ⊢
      rw [hm, Memory.read_ofBytes, List.getElem?_eq_getElem hlt]
      generalize out[(s.lzd.start + s.lzd.k).toNat] = b at *
      obtain ⟨new, hnew, hlen⟩ := copyLoop_grows n (s.lzd.start + s.lzd.k + 1) (out ++ [b])
      have hpos : s.lzd.outLen + 1 < Config.posLimit := by
        rw [hnew] at hfit
        simp only [List.length_append, List.length_cons, List.length_nil] at hfit
        omega
      simp only [lzdEmit, hpos, if_true, andThen_next]
      rw [lzdPass_with]
      have key := ih
        { lzdPass b s with
          dhist := Memory.ofBytes (out ++ [b])
          lzd := { s.lzd with outLen := out.length + 1, k := s.lzd.k + 1 } }
        (out ++ [b]) rfl (by simp)
        (by simpa [Int.add_assoc] using hfit)
      simp only [Nat.cast_add, Nat.cast_one] at key
      rw [← Int.add_assoc] at key
      rw [hnew] at key ⊢
      simp only [hm, hl, Memory.write_ofBytes] at key ⊢
      rw [key]
      simp only [lzdPassAll_with]
      simp [lzdPassAll_cons]
      omega

/-- A back-reference on the output so far (R175): what it copies, and that the token is done. -/
theorem lzdReference_eq (off : BitVec 14) (len : BitVec 12) (s : State) (out : List Byte)
    (hm : s.dhist = Memory.ofBytes out) (hl : s.lzd.outLen = out.length)
    (hfit : (copyRef off.toNat len.toNat out).length < Config.posLimit) :
    lzdReference off len s =
      .next
        { lzdPassAll ((copyRef off.toNat len.toNat out).drop out.length) s with
          dhist := Memory.ofBytes (copyRef off.toNat len.toNat out)
          lzd :=
            { s.lzd with
              off := off
              len := len
              start := (out.length : Int) - (off.toNat : Int)
              outLen := (copyRef off.toNat len.toNat out).length
              k := (copyRef off.toNat len.toNat out).length - out.length
              t := s.lzd.t + 1
              phase := if s.lzd.t + 1 = Config.group then .flag else .token
              tok := [] } } := by
  have h := lzdCopy_eq len.toNat
    { s with lzd := { s.lzd with off := off, len := len, k := 0, start := (s.lzd.outLen : Int) - (off.toNat : Int) } }
    out hm hl (by simpa [copyRef, hl] using hfit)
  rw [lzdReference, h]
  simp only [lzdPassAll_lzd]
  simp [copyRef, lzdTokenDone, hl]

/-- A literal on the output so far (R172). -/
theorem execLit_eq (b : Byte) (s : State) (hfit : s.lzd.outLen + 1 < Config.posLimit) :
    execLit b s =
      .next
        { lzdPass b s with
          dhist := Memory.write s.dhist s.lzd.outLen b
          lzd :=
            { s.lzd with
              outLen := s.lzd.outLen + 1
              t := s.lzd.t + 1
              phase := if s.lzd.t + 1 = Config.group then .flag else .token
              tok := [] } } := by
  simp only [execLit, lzdEmit, hfit, if_true, andThen_next, lzdPass_with, lzdTokenDone]

/-! ### The steps -/

/-- With no host act pending, a step is BFC's move, or waiting. -/
theorem step_of_no_script {s : State} (h : s.script = []) : step s = (bfcMove s).getD (.next s) := by
  simp only [step, h]
  cases bfcMove s <;> rfl

/-- A beat on OUT is delivered when the host takes it. -/
theorem bfcMove_deliver {s : State} {b : Beat} {rest : List Beat} (h : s.outPend = b :: rest)
    (hr : s.outReady = true) : bfcMove s = some (.next (acceptBeat b rest s)) := by
  simp [bfcMove, h, hr]

/-- A busy BFC with nothing to deliver waits when its operation waits. -/
theorem bfcMove_wait {s : State} (h : s.outPend = []) (hb : s.status.busy = true) (hm : opMove s = .wait) :
    bfcMove s = none := by
  simp [bfcMove, h, hb, hm]

/-- A busy BFC with nothing to deliver makes the move of its units. -/
theorem bfcMove_unit {s : State} {r : Result} (h : s.outPend = []) (hb : s.status.busy = true)
    (hm : opMove s = .unit r) : bfcMove s = some r := by
  simp [bfcMove, h, hb, hm]

/-- A busy BFC with nothing to deliver runs the instruction it has fetched. -/
theorem bfcMove_instr {s t : State} {i : Instr} (h : s.outPend = []) (hb : s.status.busy = true)
    (hm : opMove s = .instr i t) : bfcMove s = some (exec i t) := by
  simp [bfcMove, h, hb, hm]

/-- What a move of BFC can be: a beat is delivered, or with nothing to deliver and `BUSY` set the operation moves. -/
theorem bfcMove_cases {s : State} {r : Result} (h : bfcMove s = some r) :
    (∃ b rest, s.outPend = b :: rest ∧ s.outReady = true ∧ r = .next (acceptBeat b rest s)) ∨
      (s.outPend = [] ∧ s.status.busy = true ∧ opMove s = .unit r) ∨
      (s.outPend = [] ∧ s.status.busy = true ∧ ∃ i t, opMove s = .instr i t ∧ r = exec i t) := by
  simp only [bfcMove] at h
  split at h
  · rename_i b rest ho
    split at h
    · rename_i hr
      exact .inl ⟨b, rest, ho, hr, (Option.some.inj h).symm⟩
    · cases h
  · rename_i ho
    split at h
    · rename_i hb
      split at h
      · cases h
      · rename_i r' hm
        cases h
        exact .inr (.inl ⟨ho, hb, hm⟩)
      · rename_i i t hm
        cases h
        exact .inr (.inr ⟨ho, hb, i, t, hm, rfl⟩)
    · cases h

/-- An idle BFC with nothing to deliver has no move. -/
theorem bfcMove_idle {s : State} (h : s.outPend = []) (hb : s.status.busy = false) : bfcMove s = none := by
  simp [bfcMove, h, hb]

/-- What a step can be: BFC moves (with the host's next act one move nearer), the host acts, or nothing happens. -/
theorem step_cases (s : State) :
    (∃ script r, bfcMove { s with script := script } = some r ∧ step s = r) ∨
      (∃ a n rest, s.script = ⟨n, a⟩ :: rest ∧ step s = hostAct a { s with script := rest }) ∨ step s = .next s := by
  simp only [step]
  split
  · rename_i h
    split
    · rename_i r hr
      exact .inl ⟨s.script, r, hr, rfl⟩
    · exact .inr (.inr rfl)
  · rename_i a rest h
    exact .inr (.inl ⟨a, 0, rest, h, rfl⟩)
  · rename_i n a rest h
    split
    · rename_i r hr
      exact .inl ⟨_, r, hr, rfl⟩
    · exact .inr (.inl ⟨a, n + 1, rest, h, rfl⟩)

end Sys2Proof.Machine
end

