-- ==== Sys2Proof/Laws/PerInstr.lean ====
section
/-! SUPPORT. Statements about every instruction as syntax, one lemma per constructor. -/

namespace Sys2Proof.Laws

/-- The encoding of an instruction has the number of bytes the opcode table gives its row (30_encoding.md R103, R108). -/
def EncodedSize.Statement (i : Instr) : Prop := (encode i).length = i.size

theorem EncodedSize.rleEnc (f : CmdFields) : EncodedSize.Statement (.rleEnc f) := rfl
theorem EncodedSize.lzComp (f : CmdFields) : EncodedSize.Statement (.lzComp f) := rfl
theorem EncodedSize.imgEnc (f : CmdFields) : EncodedSize.Statement (.imgEnc f) := rfl
theorem EncodedSize.vidEnc (f : CmdFields) : EncodedSize.Statement (.vidEnc f) := rfl
theorem EncodedSize.rleDec (f : CmdFields) : EncodedSize.Statement (.rleDec f) := rfl
theorem EncodedSize.lzDecomp (f : CmdFields) : EncodedSize.Statement (.lzDecomp f) := rfl
theorem EncodedSize.imgDec (f : CmdFields) : EncodedSize.Statement (.imgDec f) := rfl
theorem EncodedSize.vidHdr (f : CmdFields) : EncodedSize.Statement (.vidHdr f) := rfl
theorem EncodedSize.vidFrame (f : CmdFields) : EncodedSize.Statement (.vidFrame f) := rfl
theorem EncodedSize.reservedOp0 (f : CmdFields) : EncodedSize.Statement (.reservedOp0 f) := rfl
theorem EncodedSize.reservedOp10 (f : CmdFields) : EncodedSize.Statement (.reservedOp10 f) := rfl
theorem EncodedSize.reservedOp11 (f : CmdFields) : EncodedSize.Statement (.reservedOp11 f) := rfl
theorem EncodedSize.reservedOp12 (f : CmdFields) : EncodedSize.Statement (.reservedOp12 f) := rfl
theorem EncodedSize.reservedOp13 (f : CmdFields) : EncodedSize.Statement (.reservedOp13 f) := rfl
theorem EncodedSize.reservedOp14 (f : CmdFields) : EncodedSize.Statement (.reservedOp14 f) := rfl
theorem EncodedSize.reservedOp15 (f : CmdFields) : EncodedSize.Statement (.reservedOp15 f) := rfl
theorem EncodedSize.start (v : BitVec 8) : EncodedSize.Statement (.start v) := rfl
theorem EncodedSize.run (count value : BitVec 4) : EncodedSize.Statement (.run count value) := rfl
theorem EncodedSize.flag (f : BitVec 8) : EncodedSize.Statement (.flag f) := rfl
theorem EncodedSize.lit (b : BitVec 8) : EncodedSize.Statement (.lit b) := rfl
theorem EncodedSize.ref11 (off len : BitVec 8) : EncodedSize.Statement (.ref11 off len) := rfl
theorem EncodedSize.ref12 (off : BitVec 8) (lenPad : BitVec 3) (len : BitVec 12) :
    EncodedSize.Statement (.ref12 off lenPad len) := rfl
theorem EncodedSize.ref21 (offPad : BitVec 1) (off : BitVec 14) (len : BitVec 8) :
    EncodedSize.Statement (.ref21 offPad off len) := rfl
theorem EncodedSize.ref22 (offPad : BitVec 1) (off : BitVec 14) (lenPad : BitVec 3) (len : BitVec 12) :
    EncodedSize.Statement (.ref22 offPad off lenPad len) := rfl
theorem EncodedSize.imgHeader (w h : BitVec 32) : EncodedSize.Statement (.imgHeader w h) := rfl
theorem EncodedSize.vidHeader (w h : BitVec 16) (rate count : BitVec 32) :
    EncodedSize.Statement (.vidHeader w h rate count) := rfl
theorem EncodedSize.frameLen (n : BitVec 32) : EncodedSize.Statement (.frameLen n) := rfl

end Sys2Proof.Laws
end

