-- ==== Sys2Proof/Laws/Search.lean ====
section
/-! SUPPORT. The match search of 41_window_compressor.md R141 to R145: where its results lie. -/

namespace Sys2Proof.Machine

theorem commonPrefix_le (n : Nat) (as bs : List Byte) :
    commonPrefix n as bs ≤ n ∧ commonPrefix n as bs ≤ as.length ∧ commonPrefix n as bs ≤ bs.length := by
  induction n generalizing as bs with
  | zero => simp [commonPrefix]
  | succ n ih =>
    cases as with
    | nil => simp [commonPrefix]
    | cons a as =>
      cases bs with
      | nil => simp [commonPrefix]
      | cons b bs =>
        have := ih as bs
        simp only [commonPrefix]
        split
        · simp only [List.length_cons]; omega
        · simp

/-- A match is no longer than the cap and no longer than the bytes that are left (R142). -/
theorem matchLen_le (d : List Byte) (i j : Nat) :
    matchLen d i j ≤ Config.maxMatch ∧ matchLen d i j ≤ d.length - i := by
  have := commonPrefix_le Config.maxMatch (d.drop j) (d.drop i)
  simp only [List.length_drop] at this
  exact ⟨this.1, this.2.2⟩

theorem searchFrom_cases (d : List Byte) (i n off : Nat) (best : Nat × Nat) :
    searchFrom d i n off best = best ∨
      ∃ o, off ≤ o ∧ o < off + n ∧ searchFrom d i n off best = (o, matchLen d i (i - o)) := by
  induction n generalizing off best with
  | zero => exact .inl rfl
  | succ n ih =>
    simp only [searchFrom]
    rcases ih (off + 1) (if best.2 < matchLen d i (i - off) then (off, matchLen d i (i - off)) else best) with h | ⟨o, h1, h2, h⟩
    · rw [h]
      split
      · exact .inr ⟨off, le_rfl, by omega, rfl⟩
      · exact .inl rfl
    · exact .inr ⟨o, by omega, by omega, h⟩

/-- The search finds nothing, or a candidate of the window with its match length (R141, R143). -/
theorem find_cases (d : List Byte) (i : Nat) :
    find d i = (0, 0) ∨
      ∃ o, 1 ≤ o ∧ o ≤ min i Config.windowSize ∧ find d i = (o, matchLen d i (i - o)) := by
  rcases searchFrom_cases d i (min i Config.windowSize) 1 (0, 0) with h | ⟨o, h1, h2, h⟩
  · exact .inl h
  · exact .inr ⟨o, h1, by omega, h⟩

/-- The bounds of a search result (R153). -/
theorem find_le (d : List Byte) (i : Nat) :
    (find d i).1 ≤ min i Config.windowSize ∧ (find d i).2 ≤ Config.maxMatch ∧ (find d i).2 ≤ d.length - i := by
  rcases find_cases d i with h | ⟨o, h1, h2, h⟩
  · simp [h]
  · have := matchLen_le d i (i - o)
    rw [h]
    exact ⟨h2, this.1, this.2⟩

/-- A token advances by at least one position and never past the input (R145). -/
theorem tokenAdvance_bounds (d : List Byte) (i : Nat) (h : i < d.length) :
    1 ≤ tokenAdvance (find d i) ∧ i + tokenAdvance (find d i) ≤ d.length := by
  have := find_le d i
  simp only [tokenAdvance, Config.minMatch]
  split <;> omega

/-- A token's payload has one to four bytes (30_encoding.md R108). -/
theorem tokenBytes_length (d : List Byte) (i : Nat) (h : i < d.length) (m : Nat × Nat) :
    1 ≤ (tokenBytes d i m).length ∧ (tokenBytes d i m).length ≤ 4 := by
  simp only [tokenBytes]
  split
  · simp only [packOff, packLen]
    split <;> split <;> simp
  · simp only [List.length_take, List.length_drop]
    omega

end Sys2Proof.Machine
end

