-- ==== Sys2Proof/Tests/Slice0.lean ====
section
/-! SUPPORT. The model's own tests: ill-formed terms refused, every constructor's word decoded, one-step tests with results
from the spec, and for every obligation with hypotheses a concrete input that meets them. -/

namespace Sys2Proof.Tests

open Sys2Proof Sys2Proof.Machine

/-! ### WellFormed refuses -/

theorem test_wf_ref11_offset_bit6 : Instr.wf (.ref11 0x40 0x04) = false := by decide
theorem test_wf_ref11_length_bit4 : Instr.wf (.ref11 0x01 0x10) = false := by decide
theorem test_wf_ref12_offset_bit6 : Instr.wf (.ref12 0x41 0 28) = false := by decide
theorem test_wf_ref21_length_bit4 : Instr.wf (.ref21 0 64 0x1F) = false := by decide

/-! ### Decoding, bit by bit from 30_encoding.md and 10_state.md R22

A command word: START, reserved 30:16, THRESH, reserved 7:6, THR_INCL, PIXFMT, OP. -/

/-- The fields of the command words below. -/
def f0 : CmdFields := { pixfmt := false, thrIncl := false, thresh := 0, rsvLow := 0, rsvHigh := 0 }

theorem test_decode_rle_enc :
    decodeCommand 0b1_000000000000000_10000001_00_0_1_0001#32 = .ok (.rleEnc { f0 with pixfmt := true, thresh := 129 }) := by
  decide
theorem test_decode_lz_comp : decodeCommand 0b1_000000000000000_00000000_00_0_0_0010#32 = .ok (.lzComp f0) := by decide
theorem test_decode_img_enc :
    decodeCommand 0b1_000000000000000_01000000_00_1_0_0011#32 = .ok (.imgEnc { f0 with thrIncl := true, thresh := 64 }) := by
  decide
theorem test_decode_vid_enc :
    decodeCommand 0b1_000000000000001_00000000_10_0_0_0100#32 = .ok (.vidEnc { f0 with rsvLow := 2, rsvHigh := 1 }) := by
  decide
theorem test_decode_rle_dec : decodeCommand 0b1_000000000000000_00000000_00_0_0_0101#32 = .ok (.rleDec f0) := by decide
theorem test_decode_lz_decomp : decodeCommand 0b1_000000000000000_00000000_00_0_0_0110#32 = .ok (.lzDecomp f0) := by decide
theorem test_decode_img_dec : decodeCommand 0b1_000000000000000_00000000_00_0_0_0111#32 = .ok (.imgDec f0) := by decide
theorem test_decode_vid_hdr : decodeCommand 0b1_000000000000000_00000000_00_0_0_1000#32 = .ok (.vidHdr f0) := by decide
theorem test_decode_vid_frame : decodeCommand 0b1_000000000000000_00000000_00_0_0_1001#32 = .ok (.vidFrame f0) := by decide
theorem test_decode_reserved0 : decodeCommand 0b1_000000000000000_00000000_00_0_0_0000#32 = .ok (.reservedOp0 f0) := by decide
theorem test_decode_reserved10 : decodeCommand 0b1_000000000000000_00000000_00_0_0_1010#32 = .ok (.reservedOp10 f0) := by decide
theorem test_decode_reserved11 : decodeCommand 0b1_000000000000000_00000000_00_0_0_1011#32 = .ok (.reservedOp11 f0) := by decide
theorem test_decode_reserved12 : decodeCommand 0b1_000000000000000_00000000_00_0_0_1100#32 = .ok (.reservedOp12 f0) := by decide
theorem test_decode_reserved13 : decodeCommand 0b1_000000000000000_00000000_00_0_0_1101#32 = .ok (.reservedOp13 f0) := by decide
theorem test_decode_reserved14 : decodeCommand 0b1_000000000000000_00000000_00_0_0_1110#32 = .ok (.reservedOp14 f0) := by decide
theorem test_decode_reserved15 : decodeCommand 0b1_000000000000000_00000000_00_0_0_1111#32 = .ok (.reservedOp15 f0) := by decide
theorem test_decode_no_start : decodeCommand 0b0_000000000000000_00000000_00_0_0_0001#32 = .error .noStart := by decide
theorem test_decode_start : decode .runStart [0b00000001#8] = .ok (.start 1, []) := by decide
theorem test_decode_run : decode .runRecord [0b1110_0001#8] = .ok (.run 14 1, []) := by decide
theorem test_decode_flag : decode .flag [0b10000100#8] = .ok (.flag 0x84, []) := by decide
theorem test_decode_lit : decode .literal [0b01100001#8] = .ok (.lit 0x61, []) := by decide
theorem test_decode_ref11 : decode .reference [0b00_111111#8, 0b0000_1111#8] = .ok (.ref11 63 15, []) := by decide
theorem test_decode_ref12 :
    decode .reference [0b00_000010#8, 0b0001_0000#8, 0b00011100#8] = .ok (.ref12 2 0 28, []) := by decide
theorem test_decode_ref21 :
    decode .reference [0b01_000001#8, 0b00000010#8, 0b0000_0100#8] = .ok (.ref21 0 258 4, []) := by decide
theorem test_decode_ref22 :
    decode .reference [0b01_100000#8, 0b00000000#8, 0b0001_0000#8, 0b11111111#8, 7] = .ok (.ref22 0 8192 0 255, [7]) := by
  decide
/-- Vector X15's offset: bit 7 of a two-byte offset is ignored (R101). -/
theorem test_decode_ref21_ignores_bit7 : decode .reference [0xC0, 0x01, 0x03] = .ok (.ref21 1 1 3, []) := by decide
/-- A reference cut short is none (R178). -/
theorem test_decode_ref_cut : decode .reference [0x40, 0x01] = .error .endOfBytes := by decide
theorem test_decode_img_header :
    decode .imgHeader [0, 0, 0, 4, 0, 0, 1, 5] = .ok (.imgHeader 4 0x105, []) := by decide
theorem test_decode_vid_header :
    decode .vidHeader [0, 2, 1, 3, 0, 0, 0, 10, 0, 0, 0, 3] = .ok (.vidHeader 2 0x103 10 3, []) := by decide
theorem test_decode_frame_len : decode .frameLen [0, 0, 1, 5] = .ok (.frameLen 0x105, []) := by decide

/-! ### Small states -/

/-- Reset, with a payload buffer of 64 bytes. -/
def small : State := { State.reset with pbufBytes := 64 }

/-- BFC running an operation, with beats on IN. -/
def running (op : Op) (q : List Beat) : State :=
  { small with status := statusStarted, cfg := { small.cfg with op := op }, inq := q }

/-- LZD with some output produced. -/
def produced (op : Op) (out : List Byte) : State :=
  { running op [] with
    dhist := Memory.ofBytes out
    lzd := { Lzd.init with outLen := out.length, phase := .token, flags := 0xFF }
    rld := { Rld.init with total := 9 }
    fpr := { Fpr.init with phase := if op = .lzDecomp then .idle else .decode } }

/-- The state after an outcome; the given one where it is no next state. -/
def after (r : Result) (s : State) : State :=
  match r with
  | .next t => t
  | .fault _ => s
  | .refused _ => s

/-! ### One step each -/

/-- P5 step 1 and R22: the word reads back without `START`, `STATUS` is `BUSY`. -/
theorem test_rle_enc_starts :
    let t := after (writeCtrl 0x80008011 small) small
    readReg t 0 = 0x00008011 ∧ readReg t 1 = 1 ∧ t.cfg.op = .rleEnc ∧ t.cfg.thresh = 128 := by decide
/-- B1: samples 7F 80 81 with threshold 128, strict, are pixels 0 0 1. -/
theorem test_bin_strict :
    [0x7F, 0x80, 0x81].map (binPixel { small.cfg with pixfmt := true, thresh := 128 }) = [0, 0, 1] := by decide
/-- B2: the same, inclusive. -/
theorem test_bin_inclusive :
    [0x7F, 0x80, 0x81].map (binPixel { small.cfg with pixfmt := true, thrIncl := true, thresh := 128 }) = [0, 1, 1] := by
  decide
/-- R5: a sixteenth pixel of a run puts out the full record. -/
theorem test_rlu_sixteenth_pixel :
    rluPixel 1 { started := true, cur := 1, cnt := 15 } = ({ started := true, cur := 1, cnt := 1 }, [0xF1]) := by decide
/-- R10. -/
theorem test_rle_enc_vector_r10 : rleEnc [0, 0, 1, 1, 1, 0] = [0x00, 0x20, 0x31, 0x10] := by decide
/-- R127's example, T = 8. -/
theorem test_rle_dec_pads : rleDec [0x01, 0x31, 0x20] 8 = [1, 1, 1, 0, 0, 0, 0, 0] := by decide
theorem test_lz_comp_starts :
    let t := after (writeCtrl 0x80000002 small) small
    readReg t 0 = 2 ∧ t.cfg.op = .lzComp ∧ t.status.busy = true := by decide
/-- R143's example: of two matches of four bytes the nearer is taken. -/
theorem test_find_nearest :
    find [0x61, 0x62, 0x63, 0x64, 0x58, 0x61, 0x62, 0x63, 0x64, 0x59, 0x61, 0x62, 0x63, 0x64] 10 = (5, 4) := by decide
theorem test_img_enc_starts :
    let t := after (writeCtrl 0x80000003 { small with width := 4, height := 5 }) small
    t.cfg.op = .imgEnc ∧ t.cfg.width = 4 ∧ t.cfg.height = 5 ∧ t.fra.phase = .hdr := by decide
/-- C15: the header of VID.ENC uses the low halves of the registers. -/
theorem test_vid_enc_header :
    vidHdrBytes { small.cfg with width := 0x00010002, height := 2, rate := 10, count := 3 } =
      [0, 2, 0, 2, 0, 0, 0, 0x0A, 0, 0, 0, 3] := by decide
/-- R27: START of VID.ENC puts `FRAME_IDX` at 0. -/
theorem test_vid_enc_starts :
    let t := after (writeCtrl 0x80000004 { small with fidx := 7, frameCount := 3 }) small
    t.cfg.op = .vidEnc ∧ readReg t 8 = 0 ∧ t.cfg.count = 3 := by decide
theorem test_rle_dec_starts :
    let t := after (writeCtrl 0x80000005 { small with totalHi := 1, totalLo := 2 }) small
    t.cfg.op = .rleDec ∧ t.rld.total = 0x100000002 := by decide
theorem test_lz_decomp_starts :
    let t := after (writeCtrl 0x80000006 { produced .lzDecomp [1] with status := .idle }) small
    t.cfg.op = .lzDecomp ∧ t.lzd.outLen = 0 ∧ t.lzd.phase = .flag := by decide
theorem test_img_dec_starts :
    let t := after (writeCtrl 0x80000007 small) small
    t.cfg.op = .imgDec ∧ t.fpr.phase = .hdr := by decide
theorem test_vid_hdr_starts :
    let t := after (writeCtrl 0x80000008 { small with fidx := 7 }) small
    t.cfg.op = .vidHdr ∧ t.fpr.phase = .hdr ∧ t.fidx = 7 := by decide
theorem test_vid_frame_starts :
    let t := after (writeCtrl 0x80000009 { small with width := 0x10002, height := 3 }) small
    t.cfg.op = .vidFrame ∧ t.fpr.phase = .len ∧ t.cfg.width = 0x10002 := by decide
/-- R105: a reserved code stores the fields and leaves `STATUS`. -/
theorem test_reserved_stores :
    let t := after (writeCtrl 0x8000FF3A { small with status := { small.status with done := true } }) small
    readReg t 0 = 0xFF3A ∧ readReg t 1 = 2 := by decide
/-- R68: a command to a busy BFC changes nothing. -/
theorem test_busy_ignores_command :
    after (writeCtrl 0x80000002 (running .rleEnc [])) small = running .rleEnc [] := by decide
/-- R132 (c): START is taken whole. -/
theorem test_start_takes_byte : (after (execStart 0xFE (running .rleDec [])) small).rld.cur = 0xFE := by decide
/-- R129: a record is cut in the middle. -/
theorem test_run_cut_at_total :
    let s := { running .rleDec [] with rld := { Rld.init with first := false, total := 4, produced := 2 } }
    (after (execRun 3 1 s) s).outPend = [.data 1, .data 1] ∧ (after (execRun 3 1 s) s).rld.produced = 4 := by decide
/-- R132 (a): a count of 0 still sets the value to pad with. -/
theorem test_run_count_zero :
    let s := { running .rleDec [] with rld := { Rld.init with first := false, total := 4 } }
    (after (execRun 0 1 s) s).outPend = [] ∧ (after (execRun 0 1 s) s).rld.cur = 1 := by decide
theorem test_flag_opens_group :
    let t := after (execFlag 0x84 (produced .lzDecomp [])) small
    t.lzd.flags = 0x84 ∧ t.lzd.t = 0 ∧ t.lzd.phase = .token := by decide
theorem test_lit_eighth_token :
    let s := { produced .lzDecomp [1] with lzd := { (produced .lzDecomp [1]).lzd with t := 7 } }
    let t := after (execLit 0x61 s) s
    t.outPend = [.data 0x61] ∧ Memory.read t.dhist 1 = some 0x61 ∧ t.lzd.phase = .flag := by decide
/-- X4: an overlapping copy of one byte. -/
theorem test_ref11_overlap :
    let t := after (execRef11 1 4 (produced .lzDecomp [0x61])) small
    t.outPend = [.data 0x61, .data 0x61, .data 0x61, .data 0x61] ∧ t.lzd.outLen = 5 ∧ t.lzd.t = 1 := by decide
/-- X6: an offset beyond the output copies nothing, and the token counts. -/
theorem test_ref11_beyond_output :
    let t := after (execRef11 5 3 (produced .lzDecomp [0x61])) small
    t.outPend = [] ∧ t.lzd.outLen = 1 ∧ t.lzd.t = 1 := by decide
/-- P3 step 5: offset 2, length 28 of a two-byte output. -/
theorem test_ref12_repeats_pattern :
    let t := after (execRef12 2 28 (produced .lzDecomp [0x61, 0x62])) small
    t.lzd.outLen = 30 ∧ Memory.read t.dhist 28 = some 0x61 ∧ Memory.read t.dhist 29 = some 0x62 := by decide
/-- X12: a two-byte offset of 1, length 3. -/
theorem test_ref21_short_offset :
    (after (execRef21 1 3 (produced .lzDecomp [0x61])) small).outPend = [.data 0x61, .data 0x61, .data 0x61] := by decide
/-- X5: offset 0 copies nothing. -/
theorem test_ref22_offset_zero : (after (execRef22 0 5 (produced .lzDecomp [0x61])) small).outPend = [] := by decide
/-- R192, R195, R39 on a geometry of zero: `GEOM0` comes with `DONE`. -/
theorem test_img_header_zero :
    let t := after (execImgHeader 0 5 (running .imgDec [])) small
    t.width = 0 ∧ t.height = 5 ∧ t.status.geom0 = false ∧ t.rld.total = 0 ∧ t.fpr.phase = .decode := by decide
/-- R233: `STATUS` of an IMG.DEC with no element to give, once its end marker has been taken, is `DONE` and `GEOM0`. -/
theorem test_zero_geometry_ends :
    let s := { running .imgDec [] with outPend := [.fin] }
    readReg (after (step s) s) 1 = 0x102 := by decide
/-- R195: the exact product of two full registers. -/
theorem test_img_header_large :
    (after (execImgHeader 0xFFFFFFFF 0xFFFFFFFF (running .imgDec [])) small).rld.total = 0xFFFFFFFE00000001 := by decide
/-- R205's example. -/
theorem test_vid_header_example :
    let t := after (execVidHeader 2 2 10 3 { running .vidHdr [] with fidx := 5 }) small
    t.width = 2 ∧ t.height = 2 ∧ t.frameRate = 10 ∧ t.frameCount = 3 ∧ t.fidx = 0 ∧ readReg t 1 = 2 := by decide
theorem test_frame_len_example :
    let t := after (execFrameLen 5 (running .vidFrame [])) small
    t.fpr.need = 5 ∧ t.fpr.phase = .payload := by decide
/-- C11: `STATUS` after a short header. -/
theorem test_short_header_raises :
    let s := { running .imgDec [.fin] with fpr := { Fpr.init with phase := .hdr, hcnt := 7, stage := [0, 0, 0, 4, 0, 0, 0] } }
    readReg (after (step s) s) 1 = 0x014 ∧ (after (step s) s).outPend = [] ∧ (after (step s) s).inq = [] := by decide
/-- P4 step 12: `STATUS` after a cut payload. -/
theorem test_cut_payload_raises :
    let s := { running .vidFrame [.fin] with fpr := { Fpr.init with phase := .payload, need := 5, got := 3 } }
    readReg (after (step s) s) 1 = 0x024 := by decide
/-- R16, V19: the beat that would make a message of 2^64 beats is refused, the one before it is taken. -/
theorem test_message_too_long :
    step { running .rleEnc [.data 1] with inTaken := 2 ^ 64 - 1 } = .refused .messageTooLong ∧
      (after (step { running .rleEnc [.data 1] with inTaken := 2 ^ 64 - 2 }) small).inTaken = 2 ^ 64 - 1 := ⟨rfl, rfl⟩
/-- R28. -/
theorem test_param : readReg small 9 = 0xFF042000 := by decide
/-- A word of the table laid before the machine is what the next step runs. -/
theorem test_fetch_word_runs :
    (after (step (small.withFetchWord 24 0x02101C)) small).lzd.len = 28 := by decide

/-! ### The hypotheses of the obligations are met -/

/-- The small states meet the invariant. -/
theorem inv_small : Inv small := by
  constructor <;>
    simp only [StatusOk, RluOk, LzcOk, LzdOk, ContainersOk, RldOk, BuffersOk, StagingOk, MemoryOk, QuietOk,
      StreamOk] <;> decide

theorem witness_DecodeOfEncode :
    Instr.wf (.ref11 0xBF 0xEF) = true ∧ Instr.wf (.ref22 1 16383 7 4095) = true ∧ Instr.wf (.rleEnc f0) = true := by decide
theorem witness_EncodeOfDecode : decode .reference [0xFF, 0xFF, 0xFF, 0xFF, 9] = .ok (.ref22 1 16383 7 4095, [9]) := by decide
theorem witness_ReferenceFieldAssembly :
    (0xBF#8).getLsbD 6 = false ∧ (0xEF#8).getLsbD 4 = false ∧ (0x40#8).getLsbD 6 = true ∧ (0x10#8).getLsbD 4 = true ∧
      16383 < 2 ^ 14 ∧ 4095 < 2 ^ 12 := by decide
theorem witness_PackedFieldBytes : 63 < 64 ∧ 64 ≤ 8192 ∧ 15 < 16 ∧ 16 ≤ 255 := by decide
theorem witness_CommandsStart :
    small.status.busy = false ∧ Instr.ctx (.rleEnc f0) = .command ∧ Instr.ctx (.reservedOp15 f0) = .command ∧
      (running .vidEnc []).status.busy = true := by decide
theorem witness_CtrlWriteWithStart :
    (0x80000001#32).getLsbD 31 = true ∧ 1 ≤ (0x80000001#32).toNat % 16 ∧ (0x80000009#32).getLsbD 31 = true ∧
      (0x80000009#32).toNat % 16 ≤ 9 ∧ (0x80000000#32).getLsbD 31 = true ∧ (0x80000000#32).toNat % 16 = 0 ∧
      (0x8000000A#32).getLsbD 31 = true ∧ 10 ≤ (0x8000000A#32).toNat % 16 ∧ small.status.busy = false ∧
      (running .rleDec []).status.busy = true := by decide
theorem witness_ReservedCodesStoreFields :
    small.status.busy = false ∧ (0x8000000F#32).getLsbD 31 = true ∧ 10 ≤ (0x8000000F#32).toNat % 16 := by decide
theorem witness_LiteralCompletes :
    let s := { produced .lzDecomp [] with lzd := { Lzd.init with outLen := 2 ^ 64 - 2 } }
    let u := produced .imgDec [1]
    let v := { produced .vidFrame [1] with rld := { Rld.init with first := false, total := 3, produced := 1 } }
    (s.lzd.outLen + 1 < 2 ^ 64 ∧ s.cfg.op.lzdFeedsRld = false) ∧
      (u.lzd.outLen + 1 < 2 ^ 64 ∧ u.cfg.op.lzdFeedsRld = true ∧ u.rld.first = true) ∧
      (v.lzd.outLen + 1 < 2 ^ 64 ∧ v.cfg.op.lzdFeedsRld = true ∧ v.rld.first = false) := by decide
theorem witness_ReferencesComplete :
    (produced .lzDecomp [0x61]).dhist = Memory.ofBytes [0x61] ∧
      (produced .lzDecomp [0x61]).lzd.outLen = [(0x61 : Byte)].length ∧
      [(0x61 : Byte)].length + (0xFF#8).toNat < 2 ^ 64 ∧ [(0x61 : Byte)].length + (0xFFF#12).toNat < 2 ^ 64 := by decide
theorem witness_StepRunsCommand :
    { small with script := [⟨0, .write 0 0x80000009⟩] }.script = ⟨0, .write 0 0x80000009⟩ :: [] ∧
      decode .command (be32 0x80000009) = .ok (.vidFrame f0, []) := by decide

theorem witness_turn_plain : BfcTurn small small := .inl ⟨rfl, rfl⟩
theorem witness_turn_before_host :
    BfcTurn { small with script := [⟨1, .reset⟩] } { small with script := [⟨0, .reset⟩] } :=
  .inr ⟨0, .reset, [], rfl, rfl⟩

theorem witness_StepRunsDecoded_run :
    let s := running .rleDec [.data 0x31]
    BfcTurn s s ∧ Running .rleDec s ∧ s.rld.ending = false ∧ s.inq = .data 0x31 :: [] ∧ s.inTaken + 1 < 2 ^ 64 ∧
      decode (if s.rld.first then .runStart else .runRecord) [0x31] = .ok (.start 0x31, []) :=
  ⟨.inl ⟨rfl, rfl⟩, ⟨rfl, rfl, rfl⟩, rfl, rfl, by decide, rfl⟩
theorem witness_StepRunsDecoded_flag :
    let s := { running .lzDecomp [.data 0x84] with lzd := { Lzd.init with p := 2 ^ 64 - 2 }, inTaken := 2 ^ 64 - 2 }
    BfcTurn s s ∧ Running .lzDecomp s ∧ s.inq = .data 0x84 :: [] ∧ s.inTaken + 1 < 2 ^ 64 ∧ s.lzd.p + 1 < 2 ^ 64 ∧ s.lzd.phase = .flag ∧
      decode .flag [0x84] = .ok (.flag 0x84, []) :=
  ⟨.inl ⟨rfl, rfl⟩, ⟨rfl, rfl, rfl⟩, rfl, by decide, by decide, rfl, rfl⟩
theorem witness_StepRunsDecoded_literal :
    let s := { produced .imgDec [] with inq := [.data 0x61], lzd := { Lzd.init with phase := .token, t := 7, flags := 0x7F } }
    BfcTurn s s ∧ Running .imgDec s ∧ s.rld.ending = false ∧ s.fpr.phase = .decode ∧ s.inq = .data 0x61 :: [] ∧
      s.inTaken + 1 < 2 ^ 64 ∧ s.lzd.p + 1 < 2 ^ 64 ∧ s.lzd.phase = .token ∧ s.lzd.flags.getLsbD s.lzd.t = false ∧
      decode .literal [0x61] = .ok (.lit 0x61, []) :=
  ⟨.inl ⟨rfl, rfl⟩, ⟨rfl, rfl, rfl⟩, rfl, rfl, rfl, by decide, by decide, rfl, by decide, rfl⟩
theorem witness_StepRunsDecoded_payload :
    let s := { produced .vidFrame [] with
      pbuf := Memory.ofBytes [0x84], lzd := Lzd.init, fpr := { Fpr.init with phase := .decode, need := 1, got := 1 } }
    BfcTurn s s ∧ Running .vidFrame s ∧ s.rld.ending = false ∧ s.fpr.phase = .decode ∧ s.lzd.p < s.fpr.need.toNat ∧
      Memory.read s.pbuf s.lzd.p = some 0x84 ∧ s.lzd.phase = .flag ∧ decode .flag [0x84] = .ok (.flag 0x84, []) :=
  ⟨.inl ⟨rfl, rfl⟩, ⟨rfl, rfl, rfl⟩, rfl, rfl, by decide, rfl, rfl, rfl⟩
theorem witness_StepRunsDecoded_reference :
    let s := { produced .vidFrame [0x61] with lzd := { Lzd.init with phase := .copy, tok := [0x01, 0x04] } }
    BfcTurn s s ∧ Running .vidFrame s ∧ s.rld.ending = false ∧ s.fpr.phase = .decode ∧ s.lzd.phase = .copy ∧
      decode .reference s.lzd.tok = .ok (.ref11 1 4, []) :=
  ⟨.inl ⟨rfl, rfl⟩, ⟨rfl, rfl, rfl⟩, rfl, rfl, rfl, rfl⟩
theorem witness_StepRunsDecoded_imgHeader :
    let s := { running .imgDec [] with fpr := { Fpr.init with phase := .hdr, hcnt := 8, stage := [0, 0, 0, 4, 0, 0, 0, 5] } }
    BfcTurn s s ∧ Running .imgDec s ∧ s.rld.ending = false ∧ s.fpr.phase = .hdr ∧ s.fpr.hcnt = 8 ∧
      decode .imgHeader s.fpr.stage = .ok (.imgHeader 4 5, []) :=
  ⟨.inl ⟨rfl, rfl⟩, ⟨rfl, rfl, rfl⟩, rfl, rfl, rfl, rfl⟩
theorem witness_StepRunsDecoded_vidHeader :
    let s := { running .vidHdr [] with
      fpr := { Fpr.init with phase := .hdr, hcnt := 12, stage := [0, 2, 0, 3, 0, 0, 0, 10, 0, 0, 0, 7] } }
    BfcTurn s s ∧ Running .vidHdr s ∧ s.fpr.phase = .hdr ∧ s.fpr.hcnt = 12 ∧
      decode .vidHeader s.fpr.stage = .ok (.vidHeader 2 3 10 7, []) :=
  ⟨.inl ⟨rfl, rfl⟩, ⟨rfl, rfl, rfl⟩, rfl, rfl, rfl⟩
theorem witness_StepRunsDecoded_frameLen :
    let s := { running .vidFrame [] with fpr := { Fpr.init with phase := .len, hcnt := 4, stage := [0, 0, 0, 5] } }
    BfcTurn s s ∧ Running .vidFrame s ∧ s.rld.ending = false ∧ s.fpr.phase = .len ∧ s.fpr.hcnt = 4 ∧
      decode .frameLen s.fpr.stage = .ok (.frameLen 5, []) :=
  ⟨.inl ⟨rfl, rfl⟩, ⟨rfl, rfl, rfl⟩, rfl, rfl, rfl, rfl⟩

/-- An operation in the header, one byte short of it, with the end of the message on IN. -/
def shortHeader (op : Op) (phase : FprPhase) (bytes : List Byte) : State :=
  { running op [.fin] with fpr := { Fpr.init with phase := phase, hcnt := bytes.length, stage := bytes } }

/-- VID.FRAME one byte short of its payload, with the end of the message on IN. -/
def shortPayload : State :=
  { running .vidFrame [.fin] with
    pbuf := Memory.ofBytes [7], fpr := { Fpr.init with phase := .payload, hcnt := 4, stage := [0, 0, 0, 2], need := 2, got := 1 } }

theorem inv_shortHeader_img : Inv (shortHeader .imgDec .hdr [0, 0, 0, 4, 0, 0, 0]) := by
  constructor <;>
    simp only [StatusOk, RluOk, LzcOk, LzdOk, ContainersOk, RldOk, BuffersOk, StagingOk, MemoryOk, QuietOk,
      StreamOk] <;> decide
theorem inv_shortHeader_vid : Inv (shortHeader .vidHdr .hdr [0, 2, 0, 2, 0, 0, 0, 10, 0, 0, 0]) := by
  constructor <;>
    simp only [StatusOk, RluOk, LzcOk, LzdOk, ContainersOk, RldOk, BuffersOk, StagingOk, MemoryOk, QuietOk,
      StreamOk] <;> decide
theorem inv_shortHeader_len : Inv (shortHeader .vidFrame .len [0, 0, 0]) := by
  constructor <;>
    simp only [StatusOk, RluOk, LzcOk, LzdOk, ContainersOk, RldOk, BuffersOk, StagingOk, MemoryOk, QuietOk,
      StreamOk] <;> decide
theorem inv_shortPayload : Inv shortPayload := by
  constructor <;>
    simp only [StatusOk, RluOk, LzcOk, LzdOk, ContainersOk, RldOk, BuffersOk, StagingOk, MemoryOk, QuietOk,
      StreamOk] <;> decide

theorem witness_EndRaisesExactly_img :
    let s := shortHeader .imgDec .hdr [0, 0, 0, 4, 0, 0, 0]
    BfcTurn s s ∧ Inv s ∧ s.inq = .fin :: [] ∧ Running .imgDec s ∧ s.fpr.phase = .hdr ∧ s.fpr.hcnt < 8 :=
  ⟨.inl ⟨rfl, rfl⟩, inv_shortHeader_img, rfl, ⟨rfl, rfl, rfl⟩, rfl, by decide⟩
theorem witness_EndRaisesExactly_vid :
    let s := shortHeader .vidHdr .hdr [0, 2, 0, 2, 0, 0, 0, 10, 0, 0, 0]
    BfcTurn s s ∧ Inv s ∧ s.inq = .fin :: [] ∧ Running .vidHdr s ∧ s.fpr.phase = .hdr ∧ s.fpr.hcnt < 12 :=
  ⟨.inl ⟨rfl, rfl⟩, inv_shortHeader_vid, rfl, ⟨rfl, rfl, rfl⟩, rfl, by decide⟩
theorem witness_EndRaisesExactly_len :
    let s := shortHeader .vidFrame .len [0, 0, 0]
    BfcTurn s s ∧ Inv s ∧ s.inq = .fin :: [] ∧ Running .vidFrame s ∧ s.fpr.phase = .len ∧ s.fpr.hcnt < 4 :=
  ⟨.inl ⟨rfl, rfl⟩, inv_shortHeader_len, rfl, ⟨rfl, rfl, rfl⟩, rfl, by decide⟩
theorem witness_EndRaisesExactly_payload :
    BfcTurn shortPayload shortPayload ∧ Inv shortPayload ∧ shortPayload.inq = .fin :: [] ∧ Running .vidFrame shortPayload ∧
      shortPayload.fpr.phase = .payload ∧ shortPayload.fpr.got < shortPayload.fpr.need.toNat :=
  ⟨.inl ⟨rfl, rfl⟩, inv_shortPayload, rfl, ⟨rfl, rfl, rfl⟩, rfl, by decide⟩
theorem witness_OnlyTheParserRaises :
    ∃ t, Inv shortPayload ∧ step shortPayload = .next t ∧ shortPayload.status.err = false ∧ t.status.err = true :=
  ⟨_, inv_shortPayload, rfl, rfl, rfl⟩
theorem witness_StatusStaysUntilStart : ∃ t, Inv small ∧ small.status.busy = false ∧ step small = .next t :=
  ⟨_, inv_small, rfl, rfl⟩
theorem witness_OneStatusBitAfterStart :
    ∃ t, step shortPayload = .next t ∧ (∀ n rest, shortPayload.script ≠ ⟨n, .reset⟩ :: rest) ∧
      shortPayload.status.busy = true :=
  ⟨_, rfl, fun _ _ h => (by cases h), rfl⟩

/-- LZ.DECOMP with its end marker on OUT. -/
def lastBeat : State := { running .lzDecomp [] with outPend := [.fin] }

theorem inv_lastBeat : Inv lastBeat := by
  constructor <;>
    simp only [StatusOk, RluOk, LzcOk, LzdOk, ContainersOk, RldOk, BuffersOk, StagingOk, MemoryOk, QuietOk,
      StreamOk] <;> decide

theorem witness_DoneMeansDelivered :
    ∃ t, Inv lastBeat ∧ step lastBeat = .next t ∧ lastBeat.status.done = false ∧ t.status.done = true :=
  ⟨_, inv_lastBeat, rfl, rfl, rfl⟩
theorem witness_OutputInOrder :
    let s := { running .lzDecomp [] with outPend := [.data 7, .fin] }
    let u := { s with outReady := false }
    (BfcTurn s s ∧ s.outPend = .data 7 :: [.fin] ∧ s.outReady = true) ∧
      (BfcTurn u u ∧ u.outPend = .data 7 :: [.fin] ∧ u.outReady = false ∧ u.script = []) ∧
      BfcTurn lastBeat lastBeat ∧ lastBeat.outPend = .fin :: [] ∧ lastBeat.outReady = true :=
  ⟨⟨.inl ⟨rfl, rfl⟩, rfl, rfl⟩, ⟨.inl ⟨rfl, rfl⟩, rfl, rfl, rfl⟩, .inl ⟨rfl, rfl⟩, rfl, rfl⟩
theorem witness_InReadyIsFaithful :
    (∃ t, bfcMove (running .lzComp [.data 7]) = some (.next t) ∧ inReady (running .lzComp [.data 7]) = true) ∧
      (∃ t, bfcMove lastBeat = some (.next t) ∧ inReady lastBeat = false) ∧ small.status.busy = false :=
  ⟨⟨_, rfl, by decide⟩, ⟨_, rfl, by decide⟩, rfl⟩
theorem witness_InReadyIsFaithful_refuses :
    let s := { running .imgEnc [.data 7] with fra := { Fra.init with phase := .body }, inTaken := 2 ^ 64 - 1 }
    inReady s = true ∧ s.inq = .data 7 :: [] ∧ 2 ^ 64 ≤ s.inTaken + 1 := by decide
theorem witness_InReadyIsFaithful_starves :
    let s := { running .vidHdr [] with fpr := { Fpr.init with phase := .hdr } }
    inReady s = true ∧ s.inq = [] ∧ s.script = [] ∧
      { s with script := [⟨2, .offer .fin⟩] }.script = ⟨2, .offer .fin⟩ :: [] := by decide
theorem witness_IdleDoesNothing :
    Idle small ∧ small.script = [] ∧ Idle { small with script := [⟨3, .reset⟩] } :=
  ⟨⟨rfl, rfl⟩, rfl, rfl, rfl⟩
theorem witness_RegisterFile :
    (8 ≤ (8#4).toNat ∧ 8 ≤ (15#4).toNat) ∧ (running .rleEnc []).status.busy = true ∧ small.status.busy = false ∧
      (0x7FFFFFFF#32).getLsbD 31 = false ∧ 10 ≤ (10#4).toNat ∧ 10 ≤ (15#4).toNat := by decide
theorem witness_SnapshotHoldsWhileBusy :
    ∃ t, (running .rleEnc [.data 1]).status.busy = true ∧ step (running .rleEnc [.data 1]) = .next t ∧
      ∀ n rest, (running .rleEnc [.data 1]).script ≠ ⟨n, .reset⟩ :: rest :=
  ⟨_, rfl, rfl, fun _ _ h => by cases h⟩
theorem witness_OperationFootprint : ∃ t, bfcMove (running .rleEnc [.data 1]) = some (.next t) := ⟨_, rfl⟩

/-- VID.ENC with its record put out. -/
def recordOut : State :=
  { running .vidEnc [] with
    pbuf := Memory.ofBytes [0, 0x40], fra := { Fra.init with phase := .payload, plen := 2, pout := 2 } }

theorem inv_recordOut : Inv recordOut := by
  constructor <;>
    simp only [StatusOk, RluOk, LzcOk, LzdOk, ContainersOk, RldOk, BuffersOk, StagingOk, MemoryOk, QuietOk,
      StreamOk] <;> decide

/-- VID.HDR with its twelve bytes taken. -/
def wholeHeader : State :=
  { running .vidHdr [] with
    fidx := 7, fpr := { Fpr.init with phase := .hdr, hcnt := 12, stage := [0, 2, 0, 2, 0, 0, 0, 10, 0, 0, 0, 3] } }

/-- VID.FRAME with its end marker on OUT. -/
def lastElement : State := { running .vidFrame [] with outPend := [.fin], fidx := 7, rld := { Rld.init with ending := true } }

theorem inv_wholeHeader : Inv wholeHeader := by
  constructor <;>
    simp only [StatusOk, RluOk, LzcOk, LzdOk, ContainersOk, RldOk, BuffersOk, StagingOk, MemoryOk, QuietOk,
      StreamOk] <;> decide
theorem inv_lastElement : Inv lastElement := by
  constructor <;>
    simp only [StatusOk, RluOk, LzcOk, LzdOk, ContainersOk, RldOk, BuffersOk, StagingOk, MemoryOk, QuietOk,
      StreamOk] <;> decide

theorem witness_FrameIndexRule :
    (∃ t, Inv recordOut ∧ bfcMove recordOut = some (.next t) ∧ recordOut.cfg.op = .vidEnc ∧ recordOut.outPend = [] ∧
        recordOut.fra.phase = .payload ∧ recordOut.fra.pout = recordOut.fra.plen) ∧
      (∃ t, Inv shortPayload ∧ bfcMove shortPayload = some (.next t) ∧ shortPayload.cfg.op = .vidFrame ∧
        t.status.done = false) ∧
      ∃ t, Inv lastBeat ∧ bfcMove lastBeat = some (.next t) :=
  ⟨⟨_, inv_recordOut, rfl, rfl, rfl, rfl, rfl⟩, ⟨_, inv_shortPayload, rfl, rfl, rfl⟩, ⟨_, inv_lastBeat, rfl⟩⟩
theorem witness_FrameIndexRule_header :
    ∃ t, Inv wholeHeader ∧ bfcMove wholeHeader = some (.next t) ∧ wholeHeader.cfg.op = .vidHdr ∧ t.status.done = true ∧
      t.fidx = 0 :=
  ⟨_, inv_wholeHeader, rfl, rfl, rfl, rfl⟩
theorem witness_FrameIndexRule_frame :
    ∃ t, Inv lastElement ∧ bfcMove lastElement = some (.next t) ∧ lastElement.cfg.op = .vidFrame ∧
      t.status.done = true ∧ t.fidx = 8 :=
  ⟨_, inv_lastElement, rfl, rfl, rfl, rfl⟩
theorem witness_RegistersDoNotReachRunningOp :
    ∃ t, bfcMove { running .imgDec [] with fpr := { Fpr.init with phase := .hdr, hcnt := 8, stage := [0, 0, 0, 4, 0, 0, 0, 5] } } =
      some (.next t) := ⟨_, rfl⟩
theorem witness_StepKeepsInv : ∃ t, Inv recordOut ∧ step recordOut = .next t := ⟨_, inv_recordOut, rfl⟩
theorem witness_NoStepFaults : Inv recordOut := inv_recordOut
theorem witness_BinarizeRule :
    small.cfg.pixfmt = false ∧ { small.cfg with pixfmt := true }.pixfmt = true ∧
      { small.cfg with pixfmt := true }.thrIncl = false ∧ { small.cfg with pixfmt := true, thrIncl := true }.thrIncl = true := by
  decide
theorem witness_RunLengthDecodeExact :
    0 < 3 ∧ 0 < (([0x01, 0x21] : List Byte).tail.flatMap runElements).length ∧
      2 < 3 ∧ (([0x01, 0x21] : List Byte).tail.flatMap runElements).length ≤ 2 := by decide
theorem witness_RunLengthEncodeWellFormed :
    (rleEnc (List.replicate 16 1)).tail[0]? = some 0xF1 ∧ (rleEnc (List.replicate 16 1)).tail[0 + 1]? = some 0x11 ∧
      (0xF1#8).extractLsb' 0 4 = (0x11#8).extractLsb' 0 4 := by decide
theorem witness_MatchLengthIsLargest : 0 < 1 ∧ 1 ≤ ([7, 7] : List Byte).length := by decide
theorem witness_FindIsLongestThenNearest :
    1 ≤ 1 ∧ 1 ≤ min 1 8192 ∧ (find [7, 8] 1).2 = 0 ∧ 0 < (find [7, 8, 7, 7] 3).2 ∧ 1 < (find [7, 8, 7, 8] 2).1 := by decide
theorem witness_CompressedSizeBound : ∀ i, i < ([7, 8, 9] : List Byte).length → (find [7, 8, 9] i).2 < 4 := by decide
theorem witness_CompressorWaitsForLookahead :
    let s := { running .lzComp [] with lzc := { Lzc.init with nIn := 254 } }
    s.cfg.op = .lzComp ∧ s.lzc.eoi = false ∧ s.lzc.nIn - s.lzc.i < 255 ∧ s.status.busy = true ∧ s.outPend = [] ∧
      s.inq = [] ∧ s.lzc.t < 8 ∧ s.script = [] := by decide
theorem witness_CompressorWaitsForLookahead_beat :
    let s := { running .imgEnc [.data 1] with fra := { Fra.init with phase := .body }, lzc := { Lzc.init with nIn := 254 } }
    s.cfg.op = .imgEnc ∧ s.fra.phase = .body ∧ s.lzc.eoi = false ∧ s.lzc.nIn - s.lzc.i < 255 ∧
      ∃ t, bfcMove s = some (.next t) := ⟨rfl, rfl, rfl, by decide, _, rfl⟩
theorem witness_CompressorWaitsForLookahead_close :
    let s := { running .vidEnc [] with fra := { Fra.init with phase := .body }, lzc := { Lzc.init with t := 8 } }
    s.cfg.op = .vidEnc ∧ s.fra.phase = .body ∧ s.lzc.eoi = false ∧ s.lzc.nIn - s.lzc.i < 255 ∧
      ∃ t, bfcMove s = some (.next t) := ⟨rfl, rfl, rfl, by decide, _, rfl⟩
theorem witness_HistoryCapacitiesSuffice_input :
    ∀ a, 2 - 8192 ≤ a → a < 2 + 255 → ([7, 8, 9] : List Byte)[a]? = ([7, 8, 9] : List Byte)[a]? := fun _ _ _ => rfl
/-- A history of one byte too old to be reached: an empty one does as well. -/
theorem witness_HistoryCapacitiesSuffice_output :
    let s := { produced .lzDecomp [] with dhist := [(0, 7)], lzd := { Lzd.init with outLen := 16384 } }
    Instr.ctx (.ref11 0 4) = .reference ∧ (∃ t, exec (.ref11 0 4) s = .next t) ∧
      ∀ a, s.lzd.outLen - 16383 ≤ a → Memory.read [] a = Memory.read s.dhist a := by
  refine ⟨rfl, ⟨_, rfl⟩, fun a h => ?_⟩
  have h' : 16384 - 16383 ≤ a := h
  show none = if 0 = a then some (7 : Byte) else none
  rw [if_neg (by omega)]
theorem witness_ImageRoundTrip :
    ([0, 1, 0, 1] : List (BitVec 1)).length = (2#32).toNat * (2#32).toNat := by decide
theorem witness_VideoRoundTrip :
    ([[0, 1]] : List (List (BitVec 1))).length < 2 ^ 32 ∧ ([0, 1] : List (BitVec 1)).length = (2#16).toNat * (1#16).toNat ∧
      (lzComp (rleEnc [0, 1])).length < 2 ^ 32 := by decide

/-- Idle, with beats on IN. -/
def idleWith (q : List Beat) : State := { small with inq := q }

theorem witness_RunsOnMessage :
    HostServes (idleWith (message [1, 0])) ∧ Idle (idleWith (message [1, 0])) ∧
      (idleWith (message [1, 0])).inq = message [1, 0] ++ [] ∧
      (idleWith (message [1, 0])).inTaken + ([1, 0] : List Byte).length < 2 ^ 64 ∧
      ([1, 0] : List Byte).length + 1 < 2 ^ 64 ∧ (lzDecomp [1, 0]).length < 2 ^ 64 :=
  ⟨⟨rfl, rfl⟩, ⟨rfl, rfl⟩, by decide, by decide, by decide, by decide⟩
theorem witness_RunsImgDec :
    HostServes (idleWith (message (be32 2 ++ be32 2 ++ [0, 0, 0x40]))) ∧
      Idle (idleWith (message (be32 2 ++ be32 2 ++ [0, 0, 0x40]))) ∧
      (idleWith (message (be32 2 ++ be32 2 ++ [0, 0, 0x40]))).inq = message (be32 2 ++ be32 2 ++ [0, 0, 0x40]) ++ [] ∧
      (idleWith []).inTaken + 8 + ([0, 0, 0x40] : List Byte).length < 2 ^ 64 ∧ (lzDecomp [0, 0, 0x40]).length < 2 ^ 64 :=
  ⟨⟨rfl, rfl⟩, ⟨rfl, rfl⟩, by decide, by decide, by decide⟩
theorem witness_RunsVidEnc :
    let s := { idleWith ([[0, 0], [1]].flatMap message) with frameCount := 2 }
    HostServes s ∧ Idle s ∧ s.inq = ([[0, 0], [1]] : List (List Byte)).flatMap message ++ [] ∧
      ([[0, 0], [1]] : List (List Byte)).length = s.frameCount.toNat ∧
      s.inTaken + (([[0, 0], [1]] : List (List Byte)).headD []).length < 2 ^ 64 ∧
      ∃ s0, exec (.vidEnc f0) s = .next s0 ∧
        ∀ bs ∈ ([[0, 0], [1]] : List (List Byte)), bs.length + 1 < 2 ^ 64 ∧
          (lzComp (rleEnc (bs.map (binPixel s0.cfg)))).length < 2 ^ 32 ∧
          (lzComp (rleEnc (bs.map (binPixel s0.cfg)))).length ≤ s.pbufBytes :=
  ⟨⟨rfl, rfl⟩, ⟨rfl, rfl⟩, by decide, by decide, by decide, _, rfl, by decide⟩
theorem witness_RunsVidHdr :
    let s := idleWith ((be16 2 ++ be16 2 ++ be32 10 ++ be32 3).map Beat.data ++ [.data 0])
    HostServes s ∧ Idle s ∧ s.inq = (be16 2 ++ be16 2 ++ be32 10 ++ be32 3).map Beat.data ++ [.data 0] ∧
      s.inTaken + 12 < 2 ^ 64 :=
  ⟨⟨rfl, rfl⟩, ⟨rfl, rfl⟩, rfl, by decide⟩
theorem witness_RunsVidFrame :
    let s := idleWith ((be32 (BitVec.ofNat 32 3) ++ [0, 0, 0x40]).map Beat.data ++ [.data 9])
    HostServes s ∧ Idle s ∧ ([0, 0, 0x40] : List Byte).length < 2 ^ 32 ∧ ([0, 0, 0x40] : List Byte).length ≤ s.pbufBytes ∧
      s.inTaken + 4 + ([0, 0, 0x40] : List Byte).length < 2 ^ 64 ∧ (lzDecomp [0, 0, 0x40]).length < 2 ^ 64 ∧
      s.inq = (be32 (BitVec.ofNat 32 ([0, 0, 0x40] : List Byte).length) ++ [0, 0, 0x40]).map Beat.data ++ [.data 9] :=
  ⟨⟨rfl, rfl⟩, ⟨rfl, rfl⟩, by decide, by decide, by decide, by decide, by decide⟩
theorem witness_RaisingLeavesNothing :
    (HostServes (idleWith (message [])) ∧ Idle (idleWith (message [])) ∧
        (idleWith (message [])).inq = message [] ++ [] ∧
        (idleWith (message [])).inTaken + ([] : List Byte).length < 2 ^ 64) ∧
      ([0, 0, 0, 4, 0, 0, 0] : List Byte).length < 8 ∧
      ([0, 2, 0, 2, 0, 0, 0, 10, 0, 0, 0] : List Byte).length < 12 ∧ ([0, 0, 0] : List Byte).length < 4 ∧
      (([0, 0, 0, 2, 7] : List Byte) = be32 2 ++ [7] ∧ ([7] : List Byte).length < (2#32).toNat ∧
        ([7] : List Byte).length ≤ (idleWith []).pbufBytes) :=
  ⟨⟨⟨rfl, rfl⟩, ⟨rfl, rfl⟩, rfl, by decide⟩, by decide, by decide, by decide, by decide⟩

end Sys2Proof.Tests
end

