-- ==== Sys2Proof/Proofs/HistoryCapacities.lean ====
section
/-! PROOF. The capacities of HBUF and DHIST (00_scope.md R7): what the match search reads of the input (41 R142, R143)
and what a back-reference reads of the history (42 R175, R183). -/

namespace Sys2Proof.Machine

/-! ### The search reads the window and the longest match ahead -/

/-- Only the first `n` bytes of each sequence count for a common front of at most `n`. -/
theorem commonPrefix_take (n : Nat) (as bs : List Byte) :
    commonPrefix n as bs = commonPrefix n (as.take n) (bs.take n) := by
  induction n generalizing as bs with
  | zero => simp [commonPrefix]
  | succ n ih =>
    cases as with
    | nil => simp [commonPrefix]
    | cons a as =>
      cases bs with
      | nil => simp [commonPrefix]
      | cons b bs => simp only [List.take_succ_cons, commonPrefix, ← ih as bs]

/-- Sequences that agree on the positions from `j` to `j + n - 1` have the same `n` bytes there. -/
theorem take_drop_congr {d e : List Byte} {j n : Nat} (h : ∀ a, j ≤ a → a < j + n → d[a]? = e[a]?) :
    (d.drop j).take n = (e.drop j).take n := by
  refine List.ext_getElem? fun k => ?_
  simp only [List.getElem?_take, List.getElem?_drop]
  split
  · exact h (j + k) (by omega) (by omega)
  · rfl

/-- A match of position `i` with an earlier `j` reads the input from `j` to `i + 254` alone (R142). -/
theorem matchLen_congr {d e : List Byte} {i j : Nat} (hj : j ≤ i)
    (h : ∀ a, j ≤ a → a < i + Config.maxMatch → d[a]? = e[a]?) : matchLen d i j = matchLen e i j := by
  have hsource : (d.drop j).take Config.maxMatch = (e.drop j).take Config.maxMatch :=
    take_drop_congr fun a h1 h2 => h a h1 (by omega)
  have hahead : (d.drop i).take Config.maxMatch = (e.drop i).take Config.maxMatch :=
    take_drop_congr fun a h1 h2 => h a (by omega) h2
  rw [matchLen, matchLen, commonPrefix_take, hsource, hahead, ← commonPrefix_take]

/-- The scan depends on the match lengths of its candidates alone. -/
theorem searchFrom_congr {d e : List Byte} {i n off : Nat} (best : Nat × Nat)
    (h : ∀ o, off ≤ o → o < off + n → matchLen d i (i - o) = matchLen e i (i - o)) :
    searchFrom d i n off best = searchFrom e i n off best := by
  induction n generalizing off best with
  | zero => rfl
  | succ n ih =>
    simp only [searchFrom, h off le_rfl (by omega)]
    exact ih _ fun o h1 h2 => h o (by omega) (by omega)

/-- The search reads the window and the longest match ahead (R60, R141, R143). -/
theorem find_congr {d e : List Byte} {i : Nat}
    (h : ∀ a, i - Config.windowSize ≤ a → a < i + Config.maxMatch → d[a]? = e[a]?) : find d i = find e i :=
  searchFrom_congr _ fun _ _ _ => matchLen_congr (Nat.sub_le _ _) fun a h1 h2 => h a (by omega) h2

/-- A token reads at most the byte at its position (R144). -/
theorem tokenBytes_congr {d e : List Byte} {i : Nat} (m : Nat × Nat) (h : d[i]? = e[i]?) :
    tokenBytes d i m = tokenBytes e i m := by
  have hbyte : (d.drop i).take 1 = (e.drop i).take 1 :=
    take_drop_congr fun a h1 h2 => by rwa [show a = i by omega]
  rw [tokenBytes, tokenBytes, hbyte]

/-! ### A copy reads the history from its start on -/

/-- The two histories agree at every position from `c` on. -/
def HistoryAgree (c : Nat) (m m' : Memory) : Prop := ∀ a, c ≤ a → Memory.read m a = Memory.read m' a

/-- The same byte written to both histories keeps them in agreement. -/
theorem HistoryAgree.write {c : Nat} {m m' : Memory} (h : HistoryAgree c m m') (p : Nat) (b : Byte) :
    HistoryAgree c (Memory.write m p b) (Memory.write m' p b) := by
  intro a ha
  rw [Memory.read_write, Memory.read_write, h a ha]

/-- `Emit` (R180) goes on just when the position counter has room, and then it writes DHIST, counts and passes the byte
on. -/
theorem lzdEmit_eq_next_iff {b : Byte} {s t : State} :
    lzdEmit b s = .next t ↔
      s.lzd.outLen + 1 < Config.posLimit ∧
        t =
          { lzdPass b s with
            dhist := Memory.write s.dhist s.lzd.outLen b
            lzd := { s.lzd with outLen := s.lzd.outLen + 1 } } := by
  by_cases hfit : s.lzd.outLen + 1 < Config.posLimit
  · simp [lzdEmit, lzdPass_with, hfit, eq_comm]
  · simp [lzdEmit, hfit]

/-- One byte of a copy that goes on (R175): its source lies in the output so far, has been written, and is emitted; the
rest of the copy follows. -/
theorem lzdCopy_succ_eq_next_iff {n : Nat} {s t : State}
    (hin : ¬(s.lzd.start + s.lzd.k < 0 ∨ (s.lzd.outLen : Int) ≤ s.lzd.start + s.lzd.k)) :
    lzdCopy (n + 1) s = .next t ↔
      ∃ b, Memory.read s.dhist (s.lzd.start + s.lzd.k).toNat = some b ∧ s.lzd.outLen + 1 < Config.posLimit ∧
        lzdCopy n
            { lzdPass b s with
              dhist := Memory.write s.dhist s.lzd.outLen b
              lzd := { s.lzd with outLen := s.lzd.outLen + 1, k := s.lzd.k + 1 } } = .next t := by
  simp only [lzdCopy, if_neg hin]
  cases hread : Memory.read s.dhist (s.lzd.start + s.lzd.k).toNat with
  | none => simp
  | some b => simp [andThen_eq_next, lzdEmit_eq_next_iff, and_assoc]

/-- A copy whose source starts at `c` or later reads the history from `c` on alone: with a history that agrees there, it
does the same, and the histories it leaves agree there. -/
theorem lzdCopy_agree {c n : Nat} {s t : State} {m : Memory} (hc : c ≤ (s.lzd.start + s.lzd.k).toNat)
    (h : lzdCopy n s = .next t) (hm : HistoryAgree c m s.dhist) :
    ∃ m', lzdCopy n { s with dhist := m } = .next { t with dhist := m' } ∧ HistoryAgree c m' t.dhist := by
  induction n generalizing s m with
  | zero =>
    obtain rfl : s = t := by simpa [lzdCopy] using h
    exact ⟨m, rfl, hm⟩
  | succ n ih =>
    by_cases hin : s.lzd.start + s.lzd.k < 0 ∨ (s.lzd.outLen : Int) ≤ s.lzd.start + s.lzd.k
    · obtain rfl : s = t := by simpa [lzdCopy, hin] using h
      exact ⟨m, by simp [lzdCopy, hin], hm⟩
    · obtain ⟨b, hread, hfit, hrest⟩ := (lzdCopy_succ_eq_next_iff hin).1 h
      obtain ⟨m', hcopy, hm'⟩ := ih (by dsimp only; omega) hrest (hm.write s.lzd.outLen b)
      refine ⟨m', (lzdCopy_succ_eq_next_iff (s := { s with dhist := m }) hin).2 ⟨b, (hm _ hc).trans hread, hfit, ?_⟩, hm'⟩
      rw [lzdPass_with b s m s.lzd]
      exact hcopy

/-- A back-reference reads the last `DHIST_BYTES` bytes of the output alone (R183). -/
theorem lzdReference_agree {off : BitVec 14} {len : BitVec 12} {s t : State} {m : Memory}
    (h : lzdReference off len s = .next t) (hm : HistoryAgree (s.lzd.outLen - Config.dhistBytes) m s.dhist) :
    ∃ m', lzdReference off len { s with dhist := m } = .next { t with dhist := m' } ∧
      HistoryAgree (s.lzd.outLen - Config.dhistBytes) m' t.dhist := by
  have hoff : off.toNat ≤ Config.dhistBytes := Nat.le_of_lt_succ off.isLt
  rw [lzdReference] at h
  obtain ⟨u, hcopy, hdone⟩ := andThen_eq_next.1 h
  obtain rfl : lzdTokenDone u = t := by simpa using hdone
  obtain ⟨m', hcopy', hm'⟩ := lzdCopy_agree (c := s.lzd.outLen - Config.dhistBytes) (by dsimp only; omega) hcopy hm
  exact ⟨m', by rw [lzdReference, hcopy', andThen_next]; rfl, hm'⟩

/-- Every shape of a back-reference is the copy of its offset and length (R88, R101). -/
theorem exec_of_ctx_reference {i : Instr} (h : i.ctx = .reference) :
    ∃ off len, ∀ s, exec i s = lzdReference off len s := by
  cases i with
  | ref11 off len => exact ⟨offOfByte off, lenOfByte len, fun _ => rfl⟩
  | ref12 off _ len => exact ⟨offOfByte off, len, fun _ => rfl⟩
  | ref21 _ off len => exact ⟨off, lenOfByte len, fun _ => rfl⟩
  | ref22 _ off _ len => exact ⟨off, len, fun _ => rfl⟩
  | _ => cases h

/-- Settles O48: the scan reads its candidates' matches, all inside the window and the longest match ahead, and a copy
starts at most `DHIST_BYTES` before the end of the output. -/
theorem historyCapacitiesSuffice : Obligations.HistoryCapacitiesSuffice := by
  refine ⟨rfl, rfl, rfl, fun d e i h => ?_, fun i s t m hi hexec hm => ?_⟩
  · have hfind : find d i = find e i := find_congr h
    exact ⟨hfind, hfind ▸ tokenBytes_congr (find d i) (h i (by omega) (by omega))⟩
  · obtain ⟨off, len, hcopy⟩ := exec_of_ctx_reference hi
    rw [hcopy] at hexec ⊢
    exact lzdReference_agree hexec hm

end Sys2Proof.Machine
end

section
/-! PROOF. What a move of BFC can be, said once for every operation: the beat it takes from IN, and what its units do
(00_scope.md R11, 10_state.md R42). Later proofs are case analyses of `EncStep`, `DecStep` and `FprStep`. -/

namespace Sys2Proof.Machine

/-! ### The place of what the decoder reads -/

theorem ctx_of_decodeCommand {v : Word} {i : Instr} (h : decodeCommand v = .ok i) : i.ctx = .command := by
  unfold decodeCommand at h
  split at h
  · cases h
    unfold commandOf
    split <;> rfl
  · cases h

/-- What the decoder reads belongs to the place it was read at (30_encoding.md R103). -/
theorem ctx_of_decode {ctx : Ctx} {bs rest : List Byte} {i : Instr} (h : decode ctx bs = .ok (i, rest)) :
    i.ctx = ctx := by
  unfold decode at h
  split at h
  case h_1 a b c d _ =>
    cases hcmd : decodeCommand (unbe32 a b c d) with
    | error e => simp [hcmd, Except.map] at h
    | ok i' =>
      simp only [hcmd, Except.map, Except.ok.injEq, Prod.mk.injEq] at h
      exact h.1 ▸ ctx_of_decodeCommand hcmd
  case h_6 =>
    simp only [decodeReference, decodeLenAfter1, decodeLenAfter2] at h
    repeat' split at h
    all_goals (cases h <;> rfl)
  all_goals (cases h <;> rfl)

/-! ### What a move leads to -/

/-- The move brings BFC to the state `t`. -/
def Move.LeadsTo : Move → State → Prop
  | .wait, _ => False
  | .unit r, t => r = .next t
  | .instr i s, t => exec i s = .next t

@[simp] theorem Move.wait_leadsTo (t : State) : ¬Move.wait.LeadsTo t := id
@[simp] theorem Move.unit_leadsTo (r : Result) (t : State) : (Move.unit r).LeadsTo t ↔ r = .next t := Iff.rfl
@[simp] theorem Move.instr_leadsTo (i : Instr) (s t : State) : (Move.instr i s).LeadsTo t ↔ exec i s = .next t :=
  Iff.rfl

/-- A move of BFC delivers a beat, or is one of the running operation. -/
theorem bfcMove_next_cases {s t : State} (h : bfcMove s = some (.next t)) :
    (∃ b rest, s.outPend = b :: rest ∧ t = acceptBeat b rest s) ∨
      (Running s.cfg.op s ∧ (opMove s).LeadsTo t) := by
  rcases bfcMove_cases h with ⟨b, rest, hout, -, ht⟩ | ⟨hout, hbusy, hmove⟩ | ⟨hout, hbusy, i, u, hmove, ht⟩
  · exact .inl ⟨b, rest, hout, by simpa using ht⟩
  · exact .inr ⟨⟨hbusy, hout, rfl⟩, by simp [hmove]⟩
  · exact .inr ⟨⟨hbusy, hout, rfl⟩, by simp [hmove, ht]⟩

/-- Before its units act, a move may take the beat on IN (20_memory.md R71): `u` is the state then. -/
inductive Fetch (s : State) : Option Beat → State → Prop where
  | nothing : Fetch s none s
  | data {b : Byte} {rest : List Beat} (inq : s.inq = .data b :: rest) (admitted : s.inTaken + 1 < Config.posLimit) :
    Fetch s (some (.data b)) { s with inq := rest, inTaken := s.inTaken + 1 }
  | fin {rest : List Beat} (inq : s.inq = .fin :: rest) : Fetch s (some .fin) { s with inq := rest, inTaken := 0 }

theorem takeIn_leadsTo {s t : State} {onData : Byte → State → Move} {onEnd : State → Move}
    (h : (takeIn s onData onEnd).LeadsTo t) :
    (∃ b rest, Fetch s (some (.data b)) { s with inq := rest, inTaken := s.inTaken + 1 } ∧
      (onData b { s with inq := rest, inTaken := s.inTaken + 1 }).LeadsTo t) ∨
      ∃ rest, Fetch s (some .fin) { s with inq := rest, inTaken := 0 } ∧
        (onEnd { s with inq := rest, inTaken := 0 }).LeadsTo t := by
  rcases takeIn_cases s onData onEnd with ⟨-, e⟩ | ⟨b, rest, hq, hlt, e⟩ | ⟨b, rest, -, -, e⟩ | ⟨rest, hq, e⟩ <;>
    rw [e] at h
  · cases h
  · exact .inl ⟨b, rest, .data hq hlt, h⟩
  · cases h
  · exact .inr ⟨rest, .fin hq, h⟩

theorem decodeMove_leadsTo {ctx : Ctx} {bs : List Byte} {cut : Result} {s t : State}
    (h : (decodeMove ctx bs cut s).LeadsTo t) :
    (∃ i rest, decode ctx bs = .ok (i, rest) ∧ exec i s = .next t) ∨
      (∃ e, decode ctx bs = .error e) ∧ cut = .next t := by
  unfold decodeMove at h
  split at h
  · rename_i i rest hdec
    exact .inl ⟨i, rest, hdec, h⟩
  · rename_i e hdec
    exact .inr ⟨⟨e, hdec⟩, h⟩

/-! ### LZC -/

/-- What LZC's own moves can be (41_window_compressor.md R152). -/
inductive LzcStep (s : State) : State → Prop where
  | close {g : List Byte} {u : State} (full : lzcGroupFull s.lzc = true)
    (read : Memory.bytes s.gbuf s.lzc.glen = some g) (out : lzcOut (encode (.flag s.lzc.flag) ++ g) s = .next u) :
    LzcStep s (lzcGroupReset u)
  | token {d : List Byte} (room : lzcGroupFull s.lzc = false) (ready : lzcReady s.lzc = true)
    (read : Memory.bytes s.hbuf s.lzc.nIn = some d) : LzcStep s (lzcTokenOn d s)
  | finish (complete : lzcComplete s.lzc = true) : LzcStep s (lzcFinish s)

/-- None of LZC's own moves can fire before more of the block has come (R152). -/
def LzcStarved (l : Lzc) : Prop := lzcGroupFull l = false ∧ lzcReady l = false

theorem lzcGroupClose_next {s t : State} (full : lzcGroupFull s.lzc = true) (h : lzcGroupClose s = .next t) :
    LzcStep s t := by
  unfold lzcGroupClose at h
  split at h
  · cases h
  · rename_i g hread
    obtain ⟨u, hout, hreset⟩ := andThen_eq_next.1 h
    cases hreset
    exact .close full hread hout

theorem lzcToken_next {s t : State} (room : lzcGroupFull s.lzc = false) (ready : lzcReady s.lzc = true)
    (h : lzcToken s = .next t) : LzcStep s t := by
  unfold lzcToken at h
  split at h
  · cases h
  · rename_i d hread
    cases h
    exact .token room ready hread

theorem lzcMove_leadsTo {s t : State} {next : Move} (h : (lzcMove s next).LeadsTo t) :
    LzcStep s t ∨ (LzcStarved s.lzc ∧ next.LeadsTo t) := by
  unfold lzcMove at h
  split at h
  · rename_i full
    exact .inl (lzcGroupClose_next full h)
  rename_i full
  split at h
  · rename_i ready
    exact .inl (lzcToken_next (by simpa using full) ready h)
  rename_i ready
  split at h
  · rename_i complete
    cases h
    exact .inl (.finish complete)
  · exact .inr ⟨⟨by simpa using full, by simpa using ready⟩, h⟩

/-! ### LZD -/

/-- What LZD does with a byte it has counted (42_window_decompressor.md R180). -/
inductive LzdByteStep (b : Byte) (s : State) : State → Prop where
  | flag (phase : s.lzd.phase = .flag) :
    LzdByteStep b s { s with lzd := { s.lzd with flags := b, t := 0, phase := .token } }
  | literal {t : State} (phase : s.lzd.phase = .token) (bit : s.lzd.flags.getLsbD s.lzd.t = false)
    (run : execLit b s = .next t) : LzdByteStep b s t
  | parse (phase : s.lzd.phase ≠ .flag) (bit : s.lzd.phase = .token → s.lzd.flags.getLsbD s.lzd.t = true) :
    LzdByteStep b s { s with lzd := lzdParse b s.lzd }

/-- What LZD does with a back-reference that is whole (R180, row COPY). Bytes that are none drop the token. -/
inductive LzdReferenceStep (s : State) : State → Prop where
  | copy {off : BitVec 14} {len : BitVec 12} {t : State} (phase : s.lzd.phase = .copy)
    (run : lzdReference off len s = .next t) : LzdReferenceStep s t
  | drop (phase : s.lzd.phase = .copy) : LzdReferenceStep s (lzdTokenDone s)

/-- The state in which LZD has counted a byte (R180). -/
abbrev lzdCounted (s : State) : State := { s with lzd := { s.lzd with p := s.lzd.p + 1 } }

/-- What LZD does with a byte, by phase and flag bit (42_window_decompressor.md R180). -/
theorem lzdByte_eq (b : Byte) (s : State) :
    lzdByte b s =
      if s.lzd.p + 1 < Config.posLimit then
        if s.lzd.phase = .flag then .instr (.flag b) (lzdCounted s)
        else if s.lzd.phase = .token ∧ s.lzd.flags.getLsbD s.lzd.t = false then .instr (.lit b) (lzdCounted s)
        else .unit (.next { s with lzd := lzdParse b (lzdCounted s).lzd })
      else .unit (.refused .counterLimit) := by
  unfold lzdByte
  congr 1
  cases hphase : s.lzd.phase with
  | token => cases hbit : s.lzd.flags.getLsbD s.lzd.t <;> simp [hphase, hbit, decodeMove, decode]
  | flag | off2 | len1 | len2 | copy => simp [hphase, decodeMove, decode]

theorem lzdByte_leadsTo {b : Byte} {s t : State} (h : (lzdByte b s).LeadsTo t) :
    s.lzd.p + 1 < Config.posLimit ∧ LzdByteStep b (lzdCounted s) t := by
  rw [lzdByte_eq] at h
  split at h
  case isFalse => cases h
  rename_i fits
  refine ⟨fits, ?_⟩
  split at h
  · rename_i phase
    cases h
    exact .flag phase
  rename_i notFlag
  split at h
  · rename_i literal
    exact .literal literal.1 literal.2 h
  · rename_i reference
    cases h
    exact .parse notFlag (by simpa using reference)

theorem lzdMove_leadsTo {s t : State} {next : Move} (h : (lzdMove s next).LeadsTo t) :
    LzdReferenceStep s t ∨ (s.lzd.phase ≠ .copy ∧ next.LeadsTo t) := by
  unfold lzdMove at h
  split at h
  · rename_i phase
    rcases decodeMove_leadsTo h with ⟨i, rest, hdec, hrun⟩ | ⟨-, hcut⟩
    · obtain ⟨off, len, hexec⟩ := exec_of_ctx_reference (ctx_of_decode hdec)
      exact .inl (.copy phase (hexec s ▸ hrun))
    · cases hcut
      exact .inl (.drop phase)
  · rename_i taking
    exact .inr ⟨taking, h⟩

/-! ### The operations that encode -/

/-- What a move of RLE.ENC, LZ.COMP, IMG.ENC or VID.ENC can be, the beat `inp` having been taken (40 R121 to R123,
41 R152, 43 R190, 44 R201). -/
inductive EncStep : Option Beat → State → State → Prop where
  | rlePixel {b : Byte} {s : State} (op : s.cfg.op = .rleEnc) :
    EncStep (some (.data b)) s
      (outBytes (rluPixel (binPixel s.cfg b) s.rlu).2 { s with rlu := (rluPixel (binPixel s.cfg b) s.rlu).1 })
  | rleEnd {s : State} (op : s.cfg.op = .rleEnc) :
    EncStep (some .fin) s (outEnd (outBytes (rluEnd s.rlu).2 { s with rlu := (rluEnd s.rlu).1 }))
  | lzc {s t : State} (op : s.cfg.op.usesLzc = true) (body : s.cfg.op = .lzComp ∨ s.fra.phase = .body)
    (step : LzcStep s t) : EncStep none s t
  | lzcByte {b : Byte} {s t : State} (op : s.cfg.op = .lzComp) (starved : LzcStarved s.lzc)
    (store : lzcStoreAll [b] s = .next t) : EncStep (some (.data b)) s t
  | lzcEnd {s : State} (op : s.cfg.op = .lzComp) : EncStep (some .fin) s (lzcInputEnd s)
  | pixel {b : Byte} {s t : State} (op : s.cfg.op = .imgEnc ∨ s.cfg.op = .vidEnc) (body : s.fra.phase = .body)
    (starved : LzcStarved s.lzc)
    (store : lzcStoreAll (rluPixel (binPixel s.cfg b) s.rlu).2 { s with rlu := (rluPixel (binPixel s.cfg b) s.rlu).1 } =
      .next t) : EncStep (some (.data b)) s t
  | pixelEnd {s t : State} (op : s.cfg.op = .imgEnc ∨ s.cfg.op = .vidEnc) (body : s.fra.phase = .body)
    (starved : LzcStarved s.lzc) (store : lzcStoreAll (rluEnd s.rlu).2 { s with rlu := (rluEnd s.rlu).1 } = .next t) :
    EncStep (some .fin) s (lzcInputEnd t)
  | imgHeader {s : State} (op : s.cfg.op = .imgEnc) (phase : s.fra.phase = .hdr) :
    EncStep none s (fraHeader (imgHdrBytes s.cfg) .body s)
  | vidHeader {s : State} (op : s.cfg.op = .vidEnc) (phase : s.fra.phase = .hdr) :
    EncStep none s (fraHeader (vidHdrBytes s.cfg) (fraNext s.fidx s.cfg.count) s)
  | frameLength {s : State} (op : s.cfg.op = .vidEnc) (phase : s.fra.phase = .len) :
    EncStep none s
      (outBytes (encode (.frameLen (BitVec.ofNat 32 s.fra.plen))) { s with fra := { s.fra with phase := .payload } })
  | recordByte {b : Byte} {s : State} (op : s.cfg.op = .vidEnc) (phase : s.fra.phase = .payload)
    (more : s.fra.pout < s.fra.plen) (read : Memory.read s.pbuf s.fra.pout = some b) :
    EncStep none s (outBytes [b] { s with fra := { s.fra with pout := s.fra.pout + 1 } })
  | frameDone {s : State} (op : s.cfg.op = .vidEnc) (phase : s.fra.phase = .payload) (last : s.fra.plen ≤ s.fra.pout) :
    EncStep none s (fraFrameDone s)
  | fileEnd {s : State} (op : s.cfg.op = .vidEnc) (phase : s.fra.phase = .fin) :
    EncStep none s (outEnd { s with fra := { s.fra with phase := .idle } })

theorem rleEncMove_leadsTo {s t : State} (op : s.cfg.op = .rleEnc) (h : (rleEncMove s).LeadsTo t) :
    ∃ inp u, Fetch s inp u ∧ EncStep inp u t := by
  rcases takeIn_leadsTo h with ⟨b, rest, hf, h⟩ | ⟨rest, hf, h⟩
  · cases h
    exact ⟨_, _, hf, .rlePixel op⟩
  · cases h
    exact ⟨_, _, hf, .rleEnd op⟩

theorem lzCompMove_leadsTo {s t : State} (op : s.cfg.op = .lzComp) (h : (lzCompMove s).LeadsTo t) :
    ∃ inp u, Fetch s inp u ∧ EncStep inp u t := by
  rcases lzcMove_leadsTo h with hstep | ⟨starved, h⟩
  · exact ⟨_, _, .nothing, .lzc (by simp [op, Op.usesLzc]) (.inl op) hstep⟩
  rcases takeIn_leadsTo h with ⟨b, rest, hf, h⟩ | ⟨rest, hf, h⟩
  · exact ⟨_, _, hf, .lzcByte op starved (andThen_eq_next.2 ⟨t, h, rfl⟩)⟩
  · cases h
    exact ⟨_, _, hf, .lzcEnd op⟩

/-- The body of an image or frame, the same in both containers (43 R190, 44 R201). -/
theorem bodyMove_leadsTo {s t : State} (op : s.cfg.op = .imgEnc ∨ s.cfg.op = .vidEnc) (body : s.fra.phase = .body)
    (h : (lzcMove s (pixelMove s)).LeadsTo t) : ∃ inp u, Fetch s inp u ∧ EncStep inp u t := by
  rcases lzcMove_leadsTo h with hstep | ⟨starved, h⟩
  · exact ⟨_, _, .nothing, .lzc (by rcases op with op | op <;> simp [op, Op.usesLzc]) (.inr body) hstep⟩
  rcases takeIn_leadsTo h with ⟨b, rest, hf, h⟩ | ⟨rest, hf, h⟩
  · exact ⟨_, _, hf, .pixel op body starved h⟩
  · obtain ⟨u, hstore, hend⟩ := andThen_eq_next.1 h
    cases hend
    exact ⟨_, _, hf, .pixelEnd op body starved hstore⟩

theorem imgEncMove_leadsTo {s t : State} (op : s.cfg.op = .imgEnc) (h : (imgEncMove s).LeadsTo t) :
    ∃ inp u, Fetch s inp u ∧ EncStep inp u t := by
  unfold imgEncMove at h
  split at h
  · rename_i phase
    cases h
    exact ⟨_, _, .nothing, .imgHeader op phase⟩
  · rename_i phase
    exact bodyMove_leadsTo (.inl op) phase h
  all_goals cases h

theorem fraPayload_next {s t : State} (op : s.cfg.op = .vidEnc) (phase : s.fra.phase = .payload)
    (h : fraPayload s = .next t) : EncStep none s t := by
  unfold fraPayload at h
  split at h
  · rename_i more
    split at h
    · cases h
    · rename_i b read
      cases h
      exact .recordByte op phase more read
  · rename_i last
    cases h
    exact .frameDone op phase (by omega)

theorem vidEncMove_leadsTo {s t : State} (op : s.cfg.op = .vidEnc) (h : (vidEncMove s).LeadsTo t) :
    ∃ inp u, Fetch s inp u ∧ EncStep inp u t := by
  unfold vidEncMove at h
  split at h
  · rename_i phase
    cases h
    exact ⟨_, _, .nothing, .vidHeader op phase⟩
  · rename_i phase
    exact bodyMove_leadsTo (.inr op) phase h
  · rename_i phase
    cases h
    exact ⟨_, _, .nothing, .frameLength op phase⟩
  · rename_i phase
    exact ⟨_, _, .nothing, fraPayload_next op phase h⟩
  · rename_i phase
    cases h
    exact ⟨_, _, .nothing, .fileEnd op phase⟩
  · cases h

/-! ### The units that decode -/

/-- LZD takes a block: LZ.DECOMP runs, or a container operation whose header, or whose length and payload, FPR has taken
(42 R180, 43 R192, 44 R206). -/
def Decoding (s : State) : Prop :=
  s.cfg.op = .lzDecomp ∨ ((s.cfg.op = .imgDec ∨ s.cfg.op = .vidFrame) ∧ s.rld.ending = false ∧ s.fpr.phase = .decode)

/-- What a move of LZD or RLD can be, the beat `inp` having been taken (40 R128, 42 R180, 43 R192, 44 R206). -/
inductive DecStep : Option Beat → State → State → Prop where
  | rldByte {b : Byte} {s : State} (op : s.cfg.op = .rleDec) (going : s.rld.ending = false) :
    DecStep (some (.data b)) s (outBytes (rldByte b s.rld).2 { s with rld := (rldByte b s.rld).1 })
  | rldEnd {s : State} (op : s.cfg.op = .rleDec) (going : s.rld.ending = false) : DecStep (some .fin) s (rldInputEnd s)
  | rldPad {s : State} (op : s.cfg.op.usesRld = true) (ending : s.rld.ending = true) : DecStep none s (rldPad s)
  | lzdByte {b : Byte} {s t : State} (op : s.cfg.op ≠ .vidFrame) (decoding : Decoding s) (taking : s.lzd.phase ≠ .copy)
    (fits : s.lzd.p + 1 < Config.posLimit) (step : LzdByteStep b (lzdCounted s) t) : DecStep (some (.data b)) s t
  | pbufByte {b : Byte} {s t : State} (op : s.cfg.op = .vidFrame) (decoding : Decoding s) (taking : s.lzd.phase ≠ .copy)
    (more : s.lzd.p < s.fpr.need.toNat) (read : Memory.read s.pbuf s.lzd.p = some b)
    (fits : s.lzd.p + 1 < Config.posLimit) (step : LzdByteStep b (lzdCounted s) t) : DecStep none s t
  | lzdReference {s t : State} (decoding : Decoding s) (step : LzdReferenceStep s t) : DecStep none s t
  | lzdEnd {s : State} (op : s.cfg.op = .lzDecomp) (taking : s.lzd.phase ≠ .copy) : DecStep (some .fin) s (outEnd s)
  | fileEnd {s : State} (op : s.cfg.op = .imgDec) (decoding : Decoding s) (taking : s.lzd.phase ≠ .copy) :
    DecStep (some .fin) s (rldInputEnd s)
  | payloadEnd {s : State} (op : s.cfg.op = .vidFrame) (decoding : Decoding s) (taking : s.lzd.phase ≠ .copy)
    (all : s.fpr.need.toNat ≤ s.lzd.p) : DecStep none s (rldInputEnd s)

theorem rleDecMove_leadsTo {s t : State} (op : s.cfg.op = .rleDec) (h : (rleDecMove s).LeadsTo t) :
    ∃ inp u, Fetch s inp u ∧ DecStep inp u t := by
  have uses : s.cfg.op.usesRld = true := by simp [op, Op.usesRld]
  unfold rleDecMove at h
  split at h
  · rename_i ending
    cases h
    exact ⟨_, _, .nothing, .rldPad uses ending⟩
  rename_i notEnding
  have going : s.rld.ending = false := by simpa using notEnding
  rcases takeIn_leadsTo h with ⟨b, rest, hf, h⟩ | ⟨rest, hf, h⟩
  · refine ⟨_, _, hf, ?_⟩
    have hbyte := DecStep.rldByte (b := b) (s := { s with inq := rest, inTaken := s.inTaken + 1 }) op going
    cases hfirst : s.rld.first <;> simp only [rldByte, hfirst, if_true] at hbyte h
    · cases h
      exact hbyte
    · cases h
      simpa [outBytes] using hbyte
  · cases h
    exact ⟨_, _, hf, .rldEnd op going⟩

theorem lzDecompMove_leadsTo {s t : State} (op : s.cfg.op = .lzDecomp) (h : (lzDecompMove s).LeadsTo t) :
    ∃ inp u, Fetch s inp u ∧ DecStep inp u t := by
  rcases lzdMove_leadsTo h with hstep | ⟨taking, h⟩
  · exact ⟨_, _, .nothing, .lzdReference (.inl op) hstep⟩
  rcases takeIn_leadsTo h with ⟨b, rest, hf, h⟩ | ⟨rest, hf, h⟩
  · obtain ⟨fits, hstep⟩ := lzdByte_leadsTo h
    exact ⟨_, _, hf, .lzdByte (by simp [op]) (.inl op) taking fits hstep⟩
  · cases h
    exact ⟨_, _, hf, .lzdEnd op taking⟩

/-! ### FPR -/

/-- FPR takes a header or a length field: `n` bytes, read at the place `ctx`, or the exception `e` (43 R192, 44 R205,
R206; 60 R230). -/
inductive Parses (s : State) : Nat → Ctx → Exc → Prop where
  | img (op : s.cfg.op = .imgDec) (phase : s.fpr.phase = .hdr) : Parses s 8 .imgHeader .malformedHeader
  | vid (op : s.cfg.op = .vidHdr) (phase : s.fpr.phase = .hdr) : Parses s 12 .vidHeader .malformedHeader
  | len (op : s.cfg.op = .vidFrame) (phase : s.fpr.phase = .len) : Parses s 4 .frameLen .truncatedPayload

/-- What FPR does with a header or a length field that is whole (43 R192, 44 R205, R206). -/
inductive FieldStep (s : State) : State → Prop where
  | img {w h : BitVec 32} {t : State} (op : s.cfg.op = .imgDec) (phase : s.fpr.phase = .hdr)
    (run : execImgHeader w h s = .next t) : FieldStep s t
  | vid {w h : BitVec 16} {rate count : BitVec 32} {t : State} (op : s.cfg.op = .vidHdr) (phase : s.fpr.phase = .hdr)
    (run : execVidHeader w h rate count s = .next t) : FieldStep s t
  | len {n : BitVec 32} {t : State} (op : s.cfg.op = .vidFrame) (phase : s.fpr.phase = .len)
    (run : execFrameLen n s = .next t) : FieldStep s t

theorem Parses.fieldStep {n : Nat} {ctx : Ctx} {e : Exc} {i : Instr} {s t : State} (parses : Parses s n ctx e)
    (place : i.ctx = ctx) (run : exec i s = .next t) : FieldStep s t := by
  cases parses with
  | img op phase =>
    cases i <;> cases place
    exact .img op phase run
  | vid op phase =>
    cases i <;> cases place
    exact .vid op phase run
  | len op phase =>
    cases i <;> cases place
    exact .len op phase run

/-- What a move of FPR can be, the beat `inp` having been taken (43 R192, R193, 44 R205 to R207). Staged bytes that are no
field raise as an early end does. -/
inductive FprStep : Option Beat → State → State → Prop where
  | stage {n : Nat} {ctx : Ctx} {e : Exc} {b : Byte} {s : State} (parses : Parses s n ctx e) (more : s.fpr.hcnt < n) :
    FprStep (some (.data b)) s (fprStage b s)
  | short {n : Nat} {ctx : Ctx} {e : Exc} {s : State} (parses : Parses s n ctx e) (more : s.fpr.hcnt < n) :
    FprStep (some .fin) s (raiseExc e s)
  | garbled {n : Nat} {ctx : Ctx} {e : Exc} {err : DecodeError} {s : State} (parses : Parses s n ctx e)
    (whole : n ≤ s.fpr.hcnt) (read : decode ctx s.fpr.stage = .error err) : FprStep none s (raiseExc e s)
  | field {n : Nat} {ctx : Ctx} {e : Exc} {s t : State} (parses : Parses s n ctx e) (whole : n ≤ s.fpr.hcnt)
    (step : FieldStep s t) : FprStep none s t
  | payloadByte {b : Byte} {s : State} (op : s.cfg.op = .vidFrame) (phase : s.fpr.phase = .payload)
    (more : s.fpr.got < s.fpr.need.toNat) (room : s.fpr.got < s.pbufBytes) :
    FprStep (some (.data b)) s
      { s with pbuf := Memory.write s.pbuf s.fpr.got b, fpr := { s.fpr with got := s.fpr.got + 1 } }
  | payloadShort {s : State} (op : s.cfg.op = .vidFrame) (phase : s.fpr.phase = .payload)
    (more : s.fpr.got < s.fpr.need.toNat) : FprStep (some .fin) s (raiseExc .truncatedPayload s)
  | payloadDone {s : State} (op : s.cfg.op = .vidFrame) (phase : s.fpr.phase = .payload)
    (all : s.fpr.need.toNat ≤ s.fpr.got) : FprStep none s (fprPayloadDone s)

theorem fprCollect_leadsTo {n : Nat} {ctx : Ctx} {e : Exc} {s t : State} (parses : Parses s n ctx e)
    (h : (fprCollect n ctx e s).LeadsTo t) : ∃ inp u, Fetch s inp u ∧ FprStep inp u t := by
  have fetched (q : List Beat) (k : Nat) : Parses { s with inq := q, inTaken := k } n ctx e := by
    cases parses with
    | img op phase => exact .img op phase
    | vid op phase => exact .vid op phase
    | len op phase => exact .len op phase
  unfold fprCollect at h
  split at h
  · rename_i whole
    rcases decodeMove_leadsTo h with ⟨i, rest, hdec, hrun⟩ | ⟨⟨err, hdec⟩, hcut⟩
    · exact ⟨_, _, .nothing, .field parses whole (parses.fieldStep (ctx_of_decode hdec) hrun)⟩
    · cases hcut
      exact ⟨_, _, .nothing, .garbled parses whole hdec⟩
  · rename_i notWhole
    have more : s.fpr.hcnt < n := Nat.lt_of_not_le notWhole
    rcases takeIn_leadsTo h with ⟨b, rest, hf, h⟩ | ⟨rest, hf, h⟩
    · cases h
      exact ⟨_, _, hf, .stage (fetched _ _) more⟩
    · cases h
      exact ⟨_, _, hf, .short (fetched _ _) more⟩

/-! ### Every operation -/

/-- What the units do in a move of the running operation. -/
inductive UnitStep (inp : Option Beat) (s t : State) : Prop where
  | enc (step : EncStep inp s t)
  | dec (step : DecStep inp s t)
  | fpr (step : FprStep inp s t)

theorem imgDecMove_leadsTo {s t : State} (op : s.cfg.op = .imgDec) (h : (imgDecMove s).LeadsTo t) :
    ∃ inp u, Fetch s inp u ∧ UnitStep inp u t := by
  unfold imgDecMove at h
  split at h
  · rename_i ending
    cases h
    exact ⟨_, _, .nothing, .dec (.rldPad (by simp [op, Op.usesRld]) ending)⟩
  rename_i notEnding
  split at h
  · rename_i phase
    obtain ⟨inp, u, hf, hstep⟩ := fprCollect_leadsTo (.img op phase) h
    exact ⟨inp, u, hf, .fpr hstep⟩
  · rename_i phase
    have decoding : Decoding s := .inr ⟨.inl op, by simpa using notEnding, phase⟩
    rcases lzdMove_leadsTo h with hstep | ⟨taking, h⟩
    · exact ⟨_, _, .nothing, .dec (.lzdReference decoding hstep)⟩
    rcases takeIn_leadsTo h with ⟨b, rest, hf, h⟩ | ⟨rest, hf, h⟩
    · obtain ⟨fits, hstep⟩ := lzdByte_leadsTo h
      exact ⟨_, _, hf, .dec (.lzdByte (by simp [op]) decoding taking fits hstep)⟩
    · cases h
      exact ⟨_, _, hf, .dec (.fileEnd op decoding taking)⟩
  all_goals cases h

theorem vidHdrMove_leadsTo {s t : State} (op : s.cfg.op = .vidHdr) (h : (vidHdrMove s).LeadsTo t) :
    ∃ inp u, Fetch s inp u ∧ FprStep inp u t := by
  unfold vidHdrMove at h
  split at h
  · rename_i phase
    exact fprCollect_leadsTo (.vid op phase) h
  all_goals cases h

theorem fprPayloadByte_next {b : Byte} {s t : State} (op : s.cfg.op = .vidFrame) (phase : s.fpr.phase = .payload)
    (more : s.fpr.got < s.fpr.need.toNat) (h : fprPayloadByte b s = .next t) : FprStep (some (.data b)) s t := by
  unfold fprPayloadByte at h
  split at h
  · cases h
  · rename_i room
    cases h
    exact .payloadByte op phase more (by omega)

theorem lzdFromPbuf_leadsTo {s t : State} (op : s.cfg.op = .vidFrame) (decoding : Decoding s)
    (taking : s.lzd.phase ≠ .copy) (h : (lzdFromPbuf s).LeadsTo t) : DecStep none s t := by
  unfold lzdFromPbuf at h
  split at h
  · rename_i more
    split at h
    · cases h
    · rename_i b read
      obtain ⟨fits, hstep⟩ := lzdByte_leadsTo h
      exact .pbufByte op decoding taking more read fits hstep
  · rename_i all
    cases h
    exact .payloadEnd op decoding taking (Nat.le_of_not_lt all)

/-- FPR takes the payload of a record (R206). -/
theorem payloadMove_leadsTo {s t : State} (op : s.cfg.op = .vidFrame) (phase : s.fpr.phase = .payload)
    (more : s.fpr.got < s.fpr.need.toNat)
    (h : (takeIn s (fun b s => .unit (fprPayloadByte b s))
      (fun s => .unit (.next (raiseExc .truncatedPayload s)))).LeadsTo t) : ∃ inp u, Fetch s inp u ∧ FprStep inp u t := by
  rcases takeIn_leadsTo h with ⟨b, rest, hf, h⟩ | ⟨rest, hf, h⟩
  · exact ⟨_, _, hf, fprPayloadByte_next op phase more h⟩
  · cases h
    exact ⟨_, _, hf, .payloadShort op phase more⟩

theorem vidFrameMove_leadsTo {s t : State} (op : s.cfg.op = .vidFrame) (h : (vidFrameMove s).LeadsTo t) :
    ∃ inp u, Fetch s inp u ∧ UnitStep inp u t := by
  unfold vidFrameMove at h
  split at h
  · rename_i ending
    cases h
    exact ⟨_, _, .nothing, .dec (.rldPad (by simp [op, Op.usesRld]) ending)⟩
  rename_i notEnding
  split at h
  · rename_i phase
    obtain ⟨inp, u, hf, hstep⟩ := fprCollect_leadsTo (.len op phase) h
    exact ⟨inp, u, hf, .fpr hstep⟩
  · rename_i phase
    split at h
    · rename_i all
      cases h
      exact ⟨_, _, .nothing, .fpr (.payloadDone op phase all)⟩
    · rename_i notAll
      obtain ⟨inp, u, hf, hstep⟩ := payloadMove_leadsTo op phase (Nat.lt_of_not_le notAll) h
      exact ⟨inp, u, hf, .fpr hstep⟩
  · rename_i phase
    have decoding : Decoding s := .inr ⟨.inr op, by simpa using notEnding, phase⟩
    rcases lzdMove_leadsTo h with hstep | ⟨taking, h⟩
    · exact ⟨_, _, .nothing, .dec (.lzdReference decoding hstep)⟩
    · exact ⟨_, _, .nothing, .dec (lzdFromPbuf_leadsTo op decoding taking h)⟩
  all_goals cases h

/-- A move of the running operation takes at most one beat, and then its units act. -/
theorem opMove_leadsTo {s t : State} (h : (opMove s).LeadsTo t) : ∃ inp u, Fetch s inp u ∧ UnitStep inp u t := by
  have enc (h : ∃ inp u, Fetch s inp u ∧ EncStep inp u t) : ∃ inp u, Fetch s inp u ∧ UnitStep inp u t :=
    let ⟨inp, u, hf, hs⟩ := h; ⟨inp, u, hf, .enc hs⟩
  have dec (h : ∃ inp u, Fetch s inp u ∧ DecStep inp u t) : ∃ inp u, Fetch s inp u ∧ UnitStep inp u t :=
    let ⟨inp, u, hf, hs⟩ := h; ⟨inp, u, hf, .dec hs⟩
  unfold opMove at h
  split at h <;> rename_i op
  · cases h
  · exact enc (rleEncMove_leadsTo op h)
  · exact enc (lzCompMove_leadsTo op h)
  · exact enc (imgEncMove_leadsTo op h)
  · exact enc (vidEncMove_leadsTo op h)
  · exact dec (rleDecMove_leadsTo op h)
  · exact dec (lzDecompMove_leadsTo op h)
  · exact imgDecMove_leadsTo op h
  · obtain ⟨inp, u, hf, hs⟩ := vidHdrMove_leadsTo op h
    exact ⟨inp, u, hf, .fpr hs⟩
  · exact vidFrameMove_leadsTo op h

end Sys2Proof.Machine
end

section
/-! PROOF. What a move of BFC writes (10_state.md R23 to R29, R42): the frames of the units' steps, and from them the
statements on the snapshot, the footprint of an operation, `STATUS` and `FRAME_IDX`. -/

namespace Sys2Proof.Machine

/-! ### The work of the units -/

/-- The units of the running operation have worked from `s` to `t`: nothing has changed but the units and buffers that
the operation uses (R42), and its output. -/
structure Works (s t : State) : Prop where
  frame : t =
    { s with
      rlu := t.rlu, lzc := t.lzc, fra := t.fra, fpr := t.fpr, lzd := t.lzd, rld := t.rld, hbuf := t.hbuf
      gbuf := t.gbuf, pbuf := t.pbuf, dhist := t.dhist, outPend := t.outPend }
  rlu : s.cfg.op.usesRlu = false → t.rlu = s.rlu
  lzc : s.cfg.op.usesLzc = false → t.lzc = s.lzc ∧ t.hbuf = s.hbuf ∧ t.gbuf = s.gbuf
  fra : s.cfg.op.usesFra = false → t.fra = s.fra
  pbuf : s.cfg.op.usesPbuf = false → t.pbuf = s.pbuf
  fpr : s.cfg.op.usesFpr = false → t.fpr = s.fpr
  lzd : s.cfg.op.usesLzd = false → t.lzd = s.lzd ∧ t.dhist = s.dhist
  rld : s.cfg.op.usesRld = false → t.rld = s.rld

namespace Works

theorem refl (s : State) : Works s s :=
  ⟨rfl, fun _ => rfl, fun _ => ⟨rfl, rfl, rfl⟩, fun _ => rfl, fun _ => rfl, fun _ => rfl,
    fun _ => ⟨rfl, rfl⟩, fun _ => rfl⟩

theorem cfg_eq {s t : State} (h : Works s t) : t.cfg = s.cfg := by rw [h.frame]
theorem status_eq {s t : State} (h : Works s t) : t.status = s.status := by rw [h.frame]
theorem fidx_eq {s t : State} (h : Works s t) : t.fidx = s.fidx := by rw [h.frame]

theorem trans {s t u : State} (h : Works s t) (k : Works t u) : Works s u where
  frame := by
    have hk := k.frame
    rw [h.frame] at hk
    exact hk
  rlu op := (k.rlu (h.cfg_eq ▸ op)).trans (h.rlu op)
  lzc op :=
    have hk := k.lzc (h.cfg_eq ▸ op)
    have hh := h.lzc op
    ⟨hk.1.trans hh.1, hk.2.1.trans hh.2.1, hk.2.2.trans hh.2.2⟩
  fra op := (k.fra (h.cfg_eq ▸ op)).trans (h.fra op)
  pbuf op := (k.pbuf (h.cfg_eq ▸ op)).trans (h.pbuf op)
  fpr op := (k.fpr (h.cfg_eq ▸ op)).trans (h.fpr op)
  lzd op :=
    have hk := k.lzd (h.cfg_eq ▸ op)
    have hh := h.lzd op
    ⟨hk.1.trans hh.1, hk.2.trans hh.2⟩
  rld op := (k.rld (h.cfg_eq ▸ op)).trans (h.rld op)

end Works

/-! ### The encoders -/

/-- Where LZC's bytes have gone: into PBUF, where they fit, or onto OUT (44_multi_frame.md R201). -/
theorem lzcOut_next {bs : List Byte} {s t : State} (h : lzcOut bs s = .next t) :
    (s.cfg.op = .vidEnc ∧ pbufAppend bs s = .next t) ∨ (s.cfg.op ≠ .vidEnc ∧ t = outBytes bs s) := by
  unfold lzcOut at h
  split at h
  · rename_i op
    exact .inl ⟨op, h⟩
  · rename_i op
    cases h
    exact .inr ⟨op, rfl⟩

theorem lzcOut_works {bs : List Byte} {s t : State} (h : lzcOut bs s = .next t) : Works s t := by
  rcases lzcOut_next h with ⟨op, happ⟩ | ⟨-, rfl⟩
  · obtain ⟨rfl, -⟩ := pbufAppend_next happ
    exact { Works.refl s with frame := rfl, pbuf := by simp [op, Op.usesPbuf], fra := by simp [op, Op.usesFra] }
  · exact { Works.refl s with frame := rfl }

theorem lzcFinish_works (s : State) : Works s (lzcFinish s) := by
  unfold lzcFinish
  split
  case h_1 op => exact { Works.refl s with frame := rfl, fra := by simp [op, Op.usesFra] }
  case h_2 op => exact { Works.refl s with frame := rfl, fra := by simp [op, Op.usesFra] }
  case h_3 => exact { Works.refl s with frame := rfl }

theorem LzcStep.works {s t : State} (op : s.cfg.op.usesLzc = true) (h : LzcStep s t) : Works s t := by
  cases h with
  | close full read out =>
    have hout := lzcOut_works out
    exact hout.trans { Works.refl _ with frame := rfl, lzc := by simp [hout.cfg_eq, op] }
  | token room ready read => exact { Works.refl s with frame := rfl, lzc := by simp [op] }
  | finish complete => exact lzcFinish_works s

theorem lzcStoreAll_works {bs : List Byte} {s t : State} (h : lzcStoreAll bs s = .next t)
    (op : s.cfg.op.usesLzc = true) : Works s t := by
  obtain ⟨rfl, -⟩ := lzcStoreAll_next h
  exact { Works.refl s with frame := rfl, lzc := by simp [op] }

/-- The last byte of a record of VID.ENC has been put out: the record is to be counted (44_multi_frame.md R201). -/
def RecordOut (s : State) : Prop := s.cfg.op = .vidEnc ∧ s.fra.phase = .payload ∧ s.fra.plen ≤ s.fra.pout

/-- The move that counts a record is the only one there is then. -/
theorem EncStep.of_recordOut {inp : Option Beat} {s t : State} (h : EncStep inp s t) (out : RecordOut s) :
    t = fraFrameDone s := by
  obtain ⟨op, phase, last⟩ := out
  cases h with
  | frameDone => rfl
  | recordByte _ _ more => omega
  | lzc _ body => simp [op, phase] at body
  | _ => simp_all

theorem EncStep.works {inp : Option Beat} {s t : State} (h : EncStep inp s t) (going : ¬RecordOut s) :
    Works s t := by
  have start := Works.refl s
  cases h with
  | rlePixel op => exact { start with frame := rfl, rlu := by simp [op, Op.usesRlu] }
  | rleEnd op => exact { start with frame := rfl, rlu := by simp [op, Op.usesRlu] }
  | lzc op body step => exact step.works op
  | lzcByte op starved store => exact lzcStoreAll_works store (by simp [op, Op.usesLzc])
  | lzcEnd op => exact { start with frame := rfl, lzc := by simp [op, Op.usesLzc] }
  | pixel op body starved store =>
    have hrlu (r : Rlu) : Works s { s with rlu := r } :=
      { start with frame := rfl, rlu := by rcases op with op | op <;> simp [op, Op.usesRlu] }
    exact (hrlu _).trans (lzcStoreAll_works store (by rcases op with op | op <;> simp [op, Op.usesLzc]))
  | pixelEnd op body starved store =>
    have uses : s.cfg.op.usesLzc = true := by rcases op with op | op <;> simp [op, Op.usesLzc]
    have hrlu (r : Rlu) : Works s { s with rlu := r } :=
      { start with frame := rfl, rlu := by rcases op with op | op <;> simp [op, Op.usesRlu] }
    have hstore := (hrlu _).trans (lzcStoreAll_works store uses)
    exact hstore.trans { Works.refl _ with frame := rfl, lzc := by simp [hstore.cfg_eq, uses] }
  | imgHeader op phase => exact { start with frame := rfl, fra := by simp [op, Op.usesFra] }
  | vidHeader op phase => exact { start with frame := rfl, fra := by simp [op, Op.usesFra] }
  | frameLength op phase => exact { start with frame := rfl, fra := by simp [op, Op.usesFra] }
  | recordByte op phase more read => exact { start with frame := rfl, fra := by simp [op, Op.usesFra] }
  | frameDone op phase last => exact absurd ⟨op, phase, last⟩ going
  | fileEnd op phase => exact { start with frame := rfl, fra := by simp [op, Op.usesFra] }

/-! ### The decoders -/

/-- An induction over the bytes a back-reference copies (42_window_decompressor.md R175): what every emitted byte takes
on, the copy takes on, for at most `n` bytes. -/
theorem lzdCopy_induction {P : Nat → State → Prop}
    (byte : ∀ (m : Nat) (u v : State) (b : Byte), P m u → lzdEmit b u = .next v →
      P (m + 1) { v with lzd := { v.lzd with k := v.lzd.k + 1 } })
    {n m : Nat} {s t : State} (start : P m s) (h : lzdCopy n s = .next t) : ∃ m', m' ≤ m + n ∧ P m' t := by
  induction n generalizing m s with
  | zero =>
    cases h
    exact ⟨m, le_rfl, start⟩
  | succ n ih =>
    simp only [lzdCopy] at h
    split at h
    · cases h
      exact ⟨m, by omega, start⟩
    · split at h
      · cases h
      · rename_i b hread
        obtain ⟨v, hemit, hrest⟩ := andThen_eq_next.1 h
        obtain ⟨m', hm, hP⟩ := ih (byte m s v b start hemit) hrest
        exact ⟨m', by omega, hP⟩

/-- FPR and RLD both stand behind LZD in a container (R42). -/
theorem Op.uses_of_lzdFeedsRld {op : Op} (h : op.lzdFeedsRld = true) : op.usesRld = true ∧ op.usesFpr = true := by
  cases op with
  | imgDec => exact ⟨rfl, rfl⟩
  | vidFrame => exact ⟨rfl, rfl⟩
  | _ => cases h

theorem lzdPass_works (b : Byte) (s : State) : Works s (lzdPass b s) := by
  unfold lzdPass
  split
  case isTrue feeds => exact { Works.refl s with frame := rfl, rld := by simp [Op.uses_of_lzdFeedsRld feeds] }
  case isFalse => exact { Works.refl s with frame := rfl }

theorem lzdEmit_works {b : Byte} {s t : State} (h : lzdEmit b s = .next t) (op : s.cfg.op.usesLzd = true) :
    Works s t := by
  obtain ⟨-, rfl⟩ := lzdEmit_eq_next_iff.1 h
  have hpass := lzdPass_works b s
  exact hpass.trans { Works.refl _ with frame := rfl, lzd := by simp [hpass.cfg_eq, op] }

/-- LZD's registers and its buffer are LZD's work, whatever the units have done before. -/
theorem Works.onLzd {s t : State} (h : Works s t) (op : s.cfg.op.usesLzd = true) (l : Lzd) (m : Memory) :
    Works s { t with lzd := l, dhist := m } :=
  h.trans { Works.refl t with frame := rfl, lzd := by simp [h.cfg_eq, op] }

theorem lzdReference_works {off : BitVec 14} {len : BitVec 12} {s t : State} (op : s.cfg.op.usesLzd = true)
    (h : lzdReference off len s = .next t) : Works s t := by
  obtain ⟨u, hcopy, hdone⟩ := andThen_eq_next.1 h
  cases hdone
  obtain ⟨-, -, hu⟩ := lzdCopy_induction (P := fun _ u => Works s u) (m := 0)
    (fun _ u v b hu hemit => (hu.trans (lzdEmit_works hemit (hu.cfg_eq ▸ op))).onLzd op _ v.dhist)
    ((Works.refl s).onLzd op _ s.dhist) hcopy
  exact hu.onLzd op _ u.dhist

theorem LzdByteStep.works {b : Byte} {s t : State} (h : LzdByteStep b s t) (op : s.cfg.op.usesLzd = true) :
    Works s t := by
  cases h with
  | flag phase => exact (Works.refl s).onLzd op _ s.dhist
  | literal phase bit run =>
    obtain ⟨u, hemit, hdone⟩ := andThen_eq_next.1 run
    cases hdone
    exact (lzdEmit_works hemit op).onLzd op _ u.dhist
  | parse phase bit => exact (Works.refl s).onLzd op _ s.dhist

theorem LzdReferenceStep.works {s t : State} (h : LzdReferenceStep s t) (op : s.cfg.op.usesLzd = true) :
    Works s t := by
  cases h with
  | copy phase run => exact lzdReference_works op run
  | drop phase => exact (Works.refl s).onLzd op _ s.dhist

theorem Decoding.usesLzd {s : State} (h : Decoding s) : s.cfg.op.usesLzd = true := by
  rcases h with op | ⟨op | op, -, -⟩ <;> simp [op, Op.usesLzd]

theorem rldInputEnd_works {s : State} (op : s.cfg.op.usesRld = true) : Works s (rldInputEnd s) :=
  { Works.refl s with
    frame := rfl
    rld := by simp [op]
    fpr := fun no => if_neg fun feeds => by simp [Op.uses_of_lzdFeedsRld feeds] at no }

theorem rldPad_works {s : State} (op : s.cfg.op.usesRld = true) : Works s (rldPad s) := by
  unfold rldPad
  split
  · exact { Works.refl s with frame := rfl, rld := by simp [op] }
  · exact
      { Works.refl s with
        frame := rfl, fpr := fun no => if_neg fun feeds => by simp [Op.uses_of_lzdFeedsRld feeds] at no }

theorem DecStep.works {inp : Option Beat} {s t : State} (h : DecStep inp s t) : Works s t := by
  cases h with
  | rldByte op => exact { Works.refl s with frame := rfl, rld := by simp [op, Op.usesRld] }
  | rldEnd op => exact rldInputEnd_works (by simp [op, Op.usesRld])
  | rldPad op ending => exact rldPad_works op
  | lzdByte op decoding taking fits step =>
    exact ((Works.refl s).onLzd decoding.usesLzd _ s.dhist).trans (step.works decoding.usesLzd)
  | pbufByte op decoding taking more read fits step =>
    exact ((Works.refl s).onLzd decoding.usesLzd _ s.dhist).trans (step.works decoding.usesLzd)
  | lzdReference decoding step => exact step.works decoding.usesLzd
  | lzdEnd op => exact { Works.refl s with frame := rfl }
  | fileEnd op => exact rldInputEnd_works (by simp [op, Op.usesRld])
  | payloadEnd op => exact rldInputEnd_works (by simp [op, Op.usesRld])

/-! ### What the host can see of a move -/

/-- What a move of the running operation does to the host registers: the units work and leave them alone, or a record
of VID.ENC is counted, or FPR raises, or a header is complete. -/
inductive Effect (s : State) : State → Prop where
  | works {t : State} (going : ¬RecordOut s) (work : Works s t) : Effect s t
  | counts (out : RecordOut s) : Effect s (fraFrameDone s)
  | raises {e : Exc} (op : s.cfg.op.usesFpr = true) : Effect s (raiseExc e s)
  | imgHeader {w h : BitVec 32} {t : State} (op : s.cfg.op = .imgDec) (run : execImgHeader w h s = .next t) : Effect s t
  | vidHeader {w h : BitVec 16} {rate count : BitVec 32} {t : State} (op : s.cfg.op = .vidHdr)
    (run : execVidHeader w h rate count s = .next t) : Effect s t

theorem Parses.usesFpr {n : Nat} {ctx : Ctx} {e : Exc} {s : State} (h : Parses s n ctx e) :
    s.cfg.op.usesFpr = true := by
  cases h with
  | img op phase => simp [op, Op.usesFpr]
  | vid op phase => simp [op, Op.usesFpr]
  | len op phase => simp [op, Op.usesFpr]

theorem not_recordOut {s : State} (h : s.cfg.op ≠ .vidEnc) : ¬RecordOut s := fun out => h out.1

/-- Nothing is decoded in VID.ENC (R42). -/
theorem DecStep.op_ne_vidEnc {inp : Option Beat} {s t : State} (h : DecStep inp s t) : s.cfg.op ≠ .vidEnc := by
  intro op
  cases h with
  | rldPad uses => simp [op, Op.usesRld] at uses
  | lzdByte _ decoding => simpa [op, Op.usesLzd] using decoding.usesLzd
  | lzdReference decoding => simpa [op, Op.usesLzd] using decoding.usesLzd
  | rldByte op' | rldEnd op' | pbufByte op' | lzdEnd op' | fileEnd op' | payloadEnd op' => simp [op] at op'

theorem FprStep.effect {inp : Option Beat} {s t : State} (h : FprStep inp s t) : Effect s t := by
  have start := Works.refl s
  cases h with
  | stage parses more =>
    exact .works (not_recordOut fun op => by simpa [op, Op.usesFpr] using parses.usesFpr)
      { start with frame := rfl, fpr := by simp [parses.usesFpr] }
  | short parses => exact .raises parses.usesFpr
  | garbled parses => exact .raises parses.usesFpr
  | field parses whole step =>
    cases step with
    | img op phase run => exact .imgHeader op run
    | vid op phase run => exact .vidHeader op run
    | len op phase run =>
      cases run
      exact .works (not_recordOut (by simp [op]))
        { start with frame := rfl, fpr := by simp [op, Op.usesFpr] }
  | payloadByte op phase more room =>
    exact .works (not_recordOut (by simp [op]))
      { start with frame := rfl, pbuf := by simp [op, Op.usesPbuf], fpr := by simp [op, Op.usesFpr] }
  | payloadShort op phase more => exact .raises (by simp [op, Op.usesFpr])
  | payloadDone op phase all =>
    exact .works (not_recordOut (by simp [op]))
      { start with frame := rfl, rld := by simp [op, Op.usesRld], fpr := by simp [op, Op.usesFpr] }

theorem UnitStep.effect {inp : Option Beat} {s t : State} (h : UnitStep inp s t) : Effect s t := by
  cases h with
  | enc step =>
    by_cases out : RecordOut s
    · exact step.of_recordOut out ▸ .counts out
    · exact .works out (step.works out)
  | dec step => exact .works (not_recordOut step.op_ne_vidEnc) step.works
  | fpr step => exact step.effect

/-! ### The footprint of an operation -/

/-- The part of a footprint (R42) that a move keeps beside the streams. -/
structure Footprint (s t : State) : Prop where
  held : t.ctrl = s.ctrl ∧ t.cfg = s.cfg ∧ t.totalLo = s.totalLo ∧ t.totalHi = s.totalHi ∧ t.pbufBytes = s.pbufBytes ∧
    t.outReady = s.outReady ∧ t.regAddr = s.regAddr ∧ t.script = s.script
  geometry : s.cfg.op ≠ .imgDec → s.cfg.op ≠ .vidHdr → t.width = s.width ∧ t.height = s.height
  video : s.cfg.op ≠ .vidHdr → t.frameRate = s.frameRate ∧ t.frameCount = s.frameCount
  fidx : s.cfg.op ≠ .vidEnc → s.cfg.op ≠ .vidHdr → s.cfg.op ≠ .vidFrame → t.fidx = s.fidx
  rlu : s.cfg.op.usesRlu = false → t.rlu = s.rlu
  lzc : s.cfg.op.usesLzc = false → t.lzc = s.lzc ∧ t.hbuf = s.hbuf ∧ t.gbuf = s.gbuf
  fra : s.cfg.op.usesFra = false → t.fra = s.fra
  pbuf : s.cfg.op.usesPbuf = false → t.pbuf = s.pbuf
  fpr : s.cfg.op.usesFpr = false → t.fpr = s.fpr
  lzd : s.cfg.op.usesLzd = false → t.lzd = s.lzd ∧ t.dhist = s.dhist
  rld : s.cfg.op.usesRld = false → t.rld = s.rld

theorem Works.footprint {s t : State} (h : Works s t) : Footprint s t where
  held := by rw [h.frame]; simp
  geometry _ _ := by rw [h.frame]; simp
  video _ := by rw [h.frame]; simp
  fidx _ _ _ := h.fidx_eq
  rlu := h.rlu
  lzc := h.lzc
  fra := h.fra
  pbuf := h.pbuf
  fpr := h.fpr
  lzd := h.lzd
  rld := h.rld

theorem Effect.footprint {s t : State} (h : Effect s t) : Footprint s t := by
  cases h with
  | works going work => exact work.footprint
  | counts out => constructor <;> simp [out.1, Op.usesRlu, Op.usesLzc, Op.usesFra, Op.usesPbuf]
  | raises op => constructor <;> simp
  | imgHeader op run =>
    cases run
    constructor <;> simp [op, Op.usesFpr, Op.usesRld]
  | vidHeader op run =>
    cases run
    constructor <;> simp [op, Op.usesFpr]

theorem Effect.streams_eq {s t : State} (h : Effect s t) :
    t.inq = s.inq ∧ t.inTaken = s.inTaken ∧ t.received = s.received := by
  cases h with
  | works going work => rw [work.frame]; simp
  | counts out => simp
  | raises op => simp
  | imgHeader op run => cases run; simp
  | vidHeader op run => cases run; simp

theorem acceptBeat_footprint (b : Beat) (rest : List Beat) (s : State) : Footprint s (acceptBeat b rest s) := by
  cases b with
  | data v => constructor <;> simp [acceptBeat]
  | fin => constructor <;> simp +contextual [acceptBeat]

@[simp] theorem acceptBeat_received (b : Beat) (rest : List Beat) (s : State) :
    (acceptBeat b rest s).received = s.received ++ [b] := by
  cases b <;> rfl

@[simp] theorem acceptBeat_inq (b : Beat) (rest : List Beat) (s : State) : (acceptBeat b rest s).inq = s.inq := by
  cases b <;> rfl

@[simp] theorem acceptBeat_inTaken (b : Beat) (rest : List Beat) (s : State) :
    (acceptBeat b rest s).inTaken = s.inTaken := by
  cases b <;> rfl

/-- The state before the units act differs from the one before the move in its input alone. -/
theorem Fetch.frame {inp : Option Beat} {s u : State} (h : Fetch s inp u) :
    u = { s with inq := u.inq, inTaken := u.inTaken } := by
  cases h <;> rfl

theorem Fetch.input {inp : Option Beat} {s u : State} (h : Fetch s inp u) :
    (u.inq = s.inq ∧ u.inTaken = s.inTaken) ∨
      ∃ b, s.inq = b :: u.inq ∧ u.inTaken = if b = .fin then 0 else s.inTaken + 1 := by
  cases h with
  | nothing => exact .inl ⟨rfl, rfl⟩
  | data inq admitted => exact .inr ⟨_, inq, by simp⟩
  | fin inq => exact .inr ⟨_, inq, by simp⟩

/-- A fetch leaves everything that a footprint speaks of. -/
theorem Footprint.of_fetch {inp : Option Beat} {s u t : State} (hf : Fetch s inp u) (h : Footprint u t) :
    Footprint s t := by
  rw [hf.frame] at h
  exact { h with }

theorem bfcMove_footprint {s t : State} (h : bfcMove s = some (.next t)) :
    Footprint s t ∧
      ((t.inq = s.inq ∧ t.inTaken = s.inTaken) ∨
        ∃ b, s.inq = b :: t.inq ∧ t.inTaken = if b = .fin then 0 else s.inTaken + 1) ∧
      (t.received = s.received ∨ ∃ b, t.received = s.received ++ [b]) := by
  rcases bfcMove_next_cases h with ⟨b, rest, -, rfl⟩ | ⟨-, hmove⟩
  · exact ⟨acceptBeat_footprint b rest s, .inl (by simp), .inr ⟨b, by simp⟩⟩
  · obtain ⟨inp, u, hf, hstep⟩ := opMove_leadsTo hmove
    obtain ⟨hq, htaken, hrec⟩ := hstep.effect.streams_eq
    refine ⟨hstep.effect.footprint.of_fetch hf, ?_, .inl ?_⟩
    · rw [hq, htaken]
      exact hf.input
    · rw [hrec, hf.frame]

/-- Settles O30: the beat is fetched and the units of the operation work, or FPR raises or completes a header, or a
beat is delivered. -/
theorem operationFootprint : Obligations.OperationFootprint := by
  intro s t h
  obtain ⟨foot, input, output⟩ := bfcMove_footprint h
  obtain ⟨ctrl, cfg, totalLo, totalHi, pbufBytes, outReady, regAddr, script⟩ := foot.held
  exact ⟨ctrl, cfg, totalLo, totalHi, pbufBytes, outReady, regAddr, script, foot.geometry, foot.video, foot.fidx,
    foot.rlu, foot.lzc, foot.fra, foot.pbuf, foot.fpr, foot.lzd, foot.rld, input, output⟩

end Sys2Proof.Machine
end

section
/-! PROOF. What an act of the host can do (00_scope.md R14), and from it and the moves of BFC the statements on steps: the
snapshot (10_state.md R29), the bits of `STATUS` (R23) and `FRAME_IDX` (R27). -/

namespace Sys2Proof.Machine

/-! ### Commands -/

theorem startOp_next {op : Op} {f : CmdFields} {s t : State} (h : startOp op f s = .next t) :
    (s.status.busy = true ∧ t = s) ∨ (s.status.busy = false ∧ t = acceptStart op f s) := by
  unfold startOp at h
  split at h <;> rename_i busy <;> cases h
  · exact .inl ⟨busy, rfl⟩
  · exact .inr ⟨by simpa using busy, rfl⟩

theorem storeReserved_next {code : BitVec 4} {f : CmdFields} {s t : State} (h : storeReserved code f s = .next t) :
    (s.status.busy = true ∧ t = s) ∨ (s.status.busy = false ∧ t = { s with ctrl := ctrlFields code f }) := by
  unfold storeReserved at h
  split at h <;> rename_i busy <;> cases h
  · exact .inl ⟨busy, rfl⟩
  · exact .inr ⟨by simpa using busy, rfl⟩

/-- What a command word does: nothing while BFC is busy (20_memory.md R68), else the START of an operation, or the
store of a reserved code (30_encoding.md R105). -/
theorem exec_command_next {i : Instr} {s t : State} (place : i.ctx = .command) (h : exec i s = .next t) :
    (s.status.busy = true ∧ t = s) ∨
      (s.status.busy = false ∧ ((∃ op f, t = acceptStart op f s) ∨ ∃ c, t = { s with ctrl := c })) := by
  cases i <;> cases place
  case rleEnc | lzComp | imgEnc | vidEnc | rleDec | lzDecomp | imgDec | vidHdr | vidFrame =>
    exact (startOp_next h).imp_right fun ⟨idle, e⟩ => ⟨idle, .inl ⟨_, _, e⟩⟩
  case reservedOp0 | reservedOp10 | reservedOp11 | reservedOp12 | reservedOp13 | reservedOp14 | reservedOp15 =>
    exact (storeReserved_next h).imp_right fun ⟨idle, e⟩ => ⟨idle, .inr ⟨_, e⟩⟩

/-- A busy BFC ignores every command word (R68, R224). -/
theorem exec_command_busy {i : Instr} {s : State} (place : i.ctx = .command) (busy : s.status.busy = true) :
    exec i s = .next s := by
  cases i <;> cases place <;> exact if_pos busy

/-! ### Acts of the host -/

/-- A register write reaches the seven writable registers alone, and `CTRL` only while BFC is idle (R21, R68). -/
theorem writeReg_frame (n : BitVec 4) (v : Word) (s : State) :
    ∃ c w h r k lo hi,
      writeReg n v s =
        { s with
          ctrl := c, width := w, height := h, frameRate := r, frameCount := k, totalLo := lo, totalHi := hi } ∧
      (s.status.busy = true → c = s.ctrl) := by
  unfold writeReg
  split
  case h_1 =>
    split
    · exact ⟨_, _, _, _, _, _, _, rfl, fun _ => rfl⟩
    case isFalse idle => exact ⟨_, _, _, _, _, _, _, rfl, fun busy => absurd busy idle⟩
  all_goals exact ⟨_, _, _, _, _, _, _, rfl, fun _ => rfl⟩

/-- What an act of the host does (R14, 20_memory.md R71, R72, 70 R260). A command word that starts nothing is a register
write. -/
inductive HostStep (s : State) : HostAct → State → Prop where
  | write {n : BitVec 4} {v : Word} (c : Ctrl) (w h r k lo hi : Word) (held : s.status.busy = true → c = s.ctrl) :
    HostStep s (.write n v)
      { s with
        regAddr := n, ctrl := c, width := w, height := h, frameRate := r, frameCount := k, totalLo := lo, totalHi := hi }
  | start {v : Word} {op : Op} {f : CmdFields} (idle : s.status.busy = false) :
    HostStep s (.write 0 v) (acceptStart op f { s with regAddr := 0 })
  | read (n : BitVec 4) : HostStep s (.read n) { s with regAddr := n }
  | offer (b : Beat) : HostStep s (.offer b) { s with inq := s.inq ++ [b] }
  | ready (r : Bool) : HostStep s (.ready r) { s with outReady := r }
  | reset : HostStep s .reset (resetBfc s)

theorem writeReg_hostStep (n : BitVec 4) (v : Word) (s : State) :
    HostStep s (.write n v) (writeReg n v { s with regAddr := n }) := by
  obtain ⟨c, w, h, r, k, lo, hi, e, held⟩ := writeReg_frame n v { s with regAddr := n }
  rw [e]
  exact .write c w h r k lo hi held

theorem writeCtrl_hostStep {v : Word} {s t : State} (h : writeCtrl v { s with regAddr := 0 } = .next t) :
    HostStep s (.write 0 v) t := by
  unfold writeCtrl at h
  split at h
  · rename_i i hdec
    rcases exec_command_next (ctx_of_decodeCommand hdec) h with ⟨-, rfl⟩ | ⟨idle, ⟨op, f, rfl⟩ | ⟨c, rfl⟩⟩
    · exact .write s.ctrl s.width s.height s.frameRate s.frameCount s.totalLo s.totalHi fun _ => rfl
    · exact .start idle
    · exact .write c s.width s.height s.frameRate s.frameCount s.totalLo s.totalHi fun busy => absurd busy (by simp_all)
  · cases h
    exact writeReg_hostStep 0 v s

theorem hostAct_next {a : HostAct} {s t : State} (h : hostAct a s = .next t) : HostStep s a t := by
  cases a with
  | write n v =>
    simp only [hostAct] at h
    split at h
    · rename_i hn
      subst hn
      exact writeCtrl_hostStep h
    · cases h
      exact writeReg_hostStep n v s
  | read n => cases h; exact .read n
  | offer b => cases h; exact .offer b
  | ready r => cases h; exact .ready r
  | reset => cases h; exact .reset

/-- A step is a move of BFC, an act of the host, or waiting. -/
theorem step_next_cases {s t : State} (h : step s = .next t) :
    (∃ script, bfcMove { s with script := script } = some (.next t)) ∨
      (∃ a n rest, s.script = ⟨n, a⟩ :: rest ∧ HostStep { s with script := rest } a t) ∨ t = s := by
  rcases step_cases s with ⟨script, r, hmove, hstep⟩ | ⟨a, n, rest, hscript, hstep⟩ | hstep <;> rw [hstep] at h
  · exact .inl ⟨script, h ▸ hmove⟩
  · exact .inr (.inl ⟨a, n, rest, hscript, hostAct_next h⟩)
  · cases h
    exact .inr (.inr rfl)

/-! ### The snapshot -/

/-- Settles O29: no move writes the snapshot or `CTRL`, and the host's writes of `CTRL` are ignored while BFC is busy. -/
theorem snapshotHoldsWhileBusy : Obligations.SnapshotHoldsWhileBusy := by
  intro s t busy hstep noReset
  rcases step_next_cases hstep with ⟨script, hmove⟩ | ⟨a, n, rest, hscript, hact⟩ | rfl
  · obtain ⟨ctrl, cfg, -⟩ := (bfcMove_footprint hmove).1.held
    exact ⟨cfg, ctrl⟩
  · cases hact with
    | write c w h r k lo hi held => exact ⟨rfl, held busy⟩
    | start idle => exact absurd (busy.symm.trans idle) (by decide)
    | reset => exact absurd hscript (noReset n rest)
    | read | offer | ready => exact ⟨rfl, rfl⟩
  · exact ⟨rfl, rfl⟩

/-! ### The bits of `STATUS` -/

/-- An operation has been started: one of `BUSY`, `DONE`, `ERR` is set (R23). -/
def Status.marked (t : Status) : Prop := t.busy = true ∨ t.done = true ∨ t.err = true

theorem Effect.status_marked {s t : State} (h : Effect s t) (marked : s.status.marked) : t.status.marked := by
  cases h with
  | works going work => rwa [work.status_eq]
  | counts out => exact marked
  | raises op => exact .inr (.inr rfl)
  | imgHeader op run => cases run; exact marked
  | vidHeader op run => cases run; exact .inr (.inl rfl)

theorem bfcMove_status_marked {s t : State} (h : bfcMove s = some (.next t)) (marked : s.status.marked) :
    t.status.marked := by
  rcases bfcMove_next_cases h with ⟨b, rest, -, rfl⟩ | ⟨-, hmove⟩
  · cases b with
    | data v => exact marked
    | fin => exact .inr (.inl rfl)
  · obtain ⟨inp, u, hf, hstep⟩ := opMove_leadsTo hmove
    exact hstep.effect.status_marked (by rwa [hf.frame])

theorem acceptStart_status (op : Op) (f : CmdFields) (s : State) : (acceptStart op f s).status = statusStarted := by
  cases op <;> rfl

/-- Settles O21: an operation ends with `DONE` or `ERR`, a START sets `BUSY`, and nothing else touches the three bits but
a reset. -/
theorem oneStatusBitAfterStart : Obligations.OneStatusBitAfterStart := by
  intro s t hstep noReset marked
  rcases step_next_cases hstep with ⟨script, hmove⟩ | ⟨a, n, rest, hscript, hact⟩ | rfl
  · exact bfcMove_status_marked hmove marked
  · cases hact with
    | start idle => exact .inl (by rw [acceptStart_status]; rfl)
    | reset => exact absurd hscript (noReset n rest)
    | write | read | offer | ready => exact marked
  · exact marked

/-! ### `FRAME_IDX` -/

theorem Inv.busy_of_outPend {s : State} (h : Inv s) (hout : s.outPend ≠ []) : s.status.busy = true := by
  obtain ⟨idle, -⟩ := h.quiet
  exact Bool.of_not_eq_false fun hb => hout (idle hb)

theorem Inv.done_of_busy {s : State} (h : Inv s) (busy : s.status.busy = true) : s.status.done = false := by
  obtain ⟨notBoth, -⟩ := h.status
  exact Bool.of_not_eq_true fun done => notBoth ⟨busy, done⟩

/-- What R27 says of `FRAME_IDX`, for a move from `s` to `t` that counts a record of VID.ENC if `counted`. -/
structure FrameIndexStep (s t : State) (counted : Prop) [Decidable counted] : Prop where
  vidHdr : s.cfg.op = .vidHdr → t.fidx = if t.status.done then 0 else s.fidx
  vidFrame : s.cfg.op = .vidFrame → t.fidx = if t.status.done then s.fidx + 1 else s.fidx
  vidEnc : s.cfg.op = .vidEnc → t.fidx = if counted then s.fidx + 1 else s.fidx
  other : s.cfg.op ≠ .vidHdr → s.cfg.op ≠ .vidFrame → s.cfg.op ≠ .vidEnc → t.fidx = s.fidx

/-- A move that leaves `FRAME_IDX` and `DONE` alone, and counts nothing. -/
theorem FrameIndexStep.of_eq {s t : State} {counted : Prop} [Decidable counted] (fidx : t.fidx = s.fidx)
    (done : t.status.done = false) (not : ¬counted) : FrameIndexStep s t counted := by
  constructor <;> simp [fidx, done, not]

theorem acceptBeat_frameIndex {s : State} {b : Beat} {rest : List Beat} (hi : Inv s) (hout : s.outPend = b :: rest) :
    FrameIndexStep s (acceptBeat b rest s) (s.outPend = [] ∧ s.fra.phase = .payload ∧ s.fra.pout = s.fra.plen) := by
  have done := hi.done_of_busy (hi.busy_of_outPend (by simp [hout]))
  cases b with
  | data v => exact .of_eq rfl done (by simp [hout])
  | fin =>
    obtain ⟨-, header, -⟩ := hi.quiet
    constructor
    · exact fun op => absurd (header op) (by simp [hout])
    · simp +contextual [acceptBeat, statusDone]
    · simp +contextual [acceptBeat, hout]
    · simp +contextual [acceptBeat]

theorem Effect.frameIndex {s t : State} (h : Effect s t) (hout : s.outPend = []) (done : s.status.done = false)
    (hpout : s.fra.pout ≤ s.fra.plen) :
    FrameIndexStep s t (s.outPend = [] ∧ s.fra.phase = .payload ∧ s.fra.pout = s.fra.plen) := by
  cases h with
  | works going work =>
    constructor
    case vidEnc =>
      intro op
      rw [work.fidx_eq, if_neg fun ⟨_, phase, all⟩ => going ⟨op, phase, all.ge⟩]
    all_goals simp [work.fidx_eq, work.status_eq, done]
  | counts out =>
    obtain ⟨op, phase, last⟩ := out
    constructor <;> simp [op, hout, phase, Nat.le_antisymm hpout last]
  | raises op =>
    constructor
    case vidEnc => exact fun enc => by simp [enc, Op.usesFpr] at op
    all_goals simp [statusErr, done]
  | imgHeader op run => cases run; constructor <;> simp [op]
  | vidHeader op run => cases run; constructor <;> simp [op, statusDone]

/-- Settles O31: the end of VID.HDR and of VID.FRAME writes `FRAME_IDX` with `DONE`, the count of a record of VID.ENC adds
1, and every other effect leaves it. -/
theorem frameIndexRule : Obligations.FrameIndexRule := by
  intro s t hi hmove
  have rule : FrameIndexStep s t (s.outPend = [] ∧ s.fra.phase = .payload ∧ s.fra.pout = s.fra.plen) := by
    rcases bfcMove_next_cases hmove with ⟨b, rest, hout, rfl⟩ | ⟨⟨busy, hout, -⟩, hop⟩
    · exact acceptBeat_frameIndex hi hout
    · obtain ⟨inp, u, hf, hstep⟩ := opMove_leadsTo hop
      obtain ⟨-, -, hpout, -⟩ := hi.containers
      have effect := hstep.effect
      rw [hf.frame] at effect
      exact { effect.frameIndex hout (hi.done_of_busy busy) hpout with }
  exact ⟨rule.vidHdr, rule.vidFrame, rule.vidEnc, rule.other⟩

end Sys2Proof.Machine
end

section
/-! PROOF. The register file (10_state.md R21 to R28, R72), the layout of `STATUS` (R23) and the reset values (R41). -/

namespace Sys2Proof.Machine

/-! ### Reads and writes -/

theorem readReg_of_ge {s : State} {n : BitVec 4} (h : 10 ≤ n.toNat) : readReg s n = 0 := by
  unfold readReg
  split
  case h_11 => rfl
  all_goals omega

theorem writeReg_readOnly {n : BitVec 4} {v : Word} {s : State} (h : n = 1 ∨ 8 ≤ n.toNat) : writeReg n v s = s := by
  unfold writeReg
  split
  case h_8 => rfl
  all_goals rcases h with rfl | h <;> simp_all

/-- A word without bit 31 starts nothing (R22): it is a plain write of `CTRL`. -/
theorem writeCtrl_plain {v : Word} {s : State} (h : v.getLsbD 31 = false) : writeCtrl v s = .next (writeReg 0 v s) := by
  have hdec : decodeCommand v = .error .noStart := if_neg (Bool.eq_false_iff.1 h)
  simp only [writeCtrl, hdec]

/-- A busy BFC ignores every write of `CTRL` (R68). -/
theorem writeCtrl_busy {v : Word} {s : State} (busy : s.status.busy = true) : writeCtrl v s = .next s := by
  unfold writeCtrl
  split
  · rename_i i hdec
    exact exec_command_busy (ctx_of_decodeCommand hdec) busy
  · exact congrArg _ (if_pos busy)

/-- `CTRL` reads back what was written but for its reserved bits and `START` (R22). -/
theorem ctrlWord_ctrlOf (v : Word) : ctrlWord (ctrlOf v) = v &&& 0x0000FF3F := by
  refine BitVec.eq_of_getLsbD_eq fun k hk => ?_
  simp only [ctrlWord, ctrlOf, BitVec.getLsbD_append, BitVec.getLsbD_and]
  interval_cases k <;> simp

/-- Settles O26: each number is a register of its own, and a plain write of `CTRL` keeps the fields R22 names. -/
theorem registerFile : Obligations.RegisterFile := by
  intro s v
  refine ⟨rfl, rfl, rfl, rfl, rfl, rfl, fun n hn => ?_, fun n => ⟨rfl, rfl⟩, fun busy => ?_, fun idle plain => ?_, rfl, rfl,
    rfl, rfl, rfl, rfl, rfl, rfl, fun n hn => readReg_of_ge hn⟩
  · have h0 : n ≠ 0 := by rintro rfl; simp at hn
    simp only [hostAct, if_neg h0, writeReg_readOnly hn]
  · exact writeCtrl_busy busy
  · refine ⟨{ s with regAddr := 0, ctrl := ctrlOf v }, ?_, rfl, ctrlWord_ctrlOf v⟩
    simp [hostAct, writeCtrl_plain plain, writeReg, idle]

/-- Settles O27: bit by bit along the concatenation of R23. -/
theorem statusWordLayout : Obligations.StatusWordLayout := by
  refine fun s => ⟨fun k => ?_, rfl, rfl⟩
  change (statusWord s.status).getLsbD k = _
  rcases Nat.lt_or_ge k 32 with hk | hk
  · simp only [statusWord, BitVec.getLsbD_append]
    interval_cases k <;> simp
  · rw [BitVec.getLsbD_of_ge _ _ hk]
    have : ¬k < 8 := by omega
    simp [show k ≠ 0 by omega, show k ≠ 1 by omega, show k ≠ 2 by omega, show k ≠ 8 by omega, this]

/-! ### Reset -/

/-- After reset every register reads 0 but the constant `PARAM` (R28, R41). -/
theorem readReg_resetBfc (s : State) (n : BitVec 4) : readReg (resetBfc s) n = if n = 9 then 0xFF042000 else 0 := by
  have h (m : BitVec 4) : readReg State.reset m = if m = 9 then 0xFF042000 else 0 := by decide +revert
  exact h n

/-- Settles O28: reset puts back the state of R41 and leaves the host's side. -/
theorem resetValues : Obligations.ResetValues := fun s =>
  ⟨resetBfc s, rfl, readReg_resetBfc s, rfl, rfl, rfl, rfl, rfl, rfl, rfl, rfl, rfl, rfl, rfl, rfl, rfl, rfl, rfl, rfl, rfl,
    rfl⟩

/-- A reset leads to the invariant if the message on IN is an admitted one: the start values are in their ranges and every
buffer is empty (R41). -/
theorem inv_resetBfc {s : State} (h : StreamOk s) : Inv (resetBfc s) where
  status := by simp [StatusOk, Status.idle, State.reset]
  rlu := by simp [RluOk, Rlu.init, State.reset]
  lzc := by simp [LzcOk, Lzc.init, State.reset]
  lzd := by simp [LzdOk, Lzd.init, State.reset]
  containers := by simp [ContainersOk, Fra.init, Fpr.init, State.reset]
  rld := by simp [RldOk, Rld.init, State.reset]
  buffers := ⟨rfl, rfl, rfl, nofun, nofun⟩
  staging := nofun
  memory := ⟨Memory.wf_nil, Memory.wf_nil, Memory.wf_nil, Memory.wf_nil⟩
  quiet := by simp [QuietOk, State.reset]
  stream := h

/-- Settles O33. -/
theorem resetMeetsInv : Obligations.ResetMeetsInv := inv_resetBfc (s := State.reset) (by simp [StreamOk, State.reset])

end Sys2Proof.Machine
end

section
/-! PROOF. A register written during an operation does not reach it (10_state.md R29, 20_memory.md R68, 70 R270): every
part of a move commutes with putting other values into the six registers, but for the two header instructions, which
write registers and read none. -/

namespace Sys2Proof.Machine

/-! ### Other values in the registers -/

/-- Values for the six registers that a host can write while BFC is busy (R68). -/
structure HostRegs where
  width : Word
  height : Word
  rate : Word
  count : Word
  totalLo : Word
  totalHi : Word

/-- The state with those values in the registers. -/
abbrev HostRegs.on (g : HostRegs) (s : State) : State :=
  withHostRegs s g.width g.height g.rate g.count g.totalLo g.totalHi

/-- The values a state has there. -/
def hostRegsOf (s : State) : HostRegs := ⟨s.width, s.height, s.frameRate, s.frameCount, s.totalLo, s.totalHi⟩

theorem hostRegsOf_on (s : State) : (hostRegsOf s).on s = s := rfl

/-- A function of the state applied to the outcome of a step. -/
def mapNext (f : State → State) : Result → Result
  | .next s => .next (f s)
  | .fault e => .fault e
  | .refused e => .refused e

/-- The first move is the second one with the values `g` in the registers; an instruction that it fetches is no
command. -/
inductive OnRegs (g : HostRegs) : Move → Move → Prop where
  | wait : OnRegs g .wait .wait
  | unit {r r' : Result} (h : r' = mapNext g.on r) : OnRegs g (.unit r') (.unit r)
  | instr {i : Instr} {s : State} (token : i.ctx ≠ .command) : OnRegs g (.instr i (g.on s)) (.instr i s)

/-- A choice commutes with a function that both branches commute with. -/
theorem ite_commutes {α β : Type} (f : α → β) {c : Prop} {inst inst' : Decidable c} {a b : α} {a' b' : β}
    (pos : a' = f a) (neg : b' = f b) : @ite β c inst a' b' = f (@ite α c inst' a b) := by
  by_cases h : c <;> simp [h, pos, neg]

section
variable (g : HostRegs)

theorem andThen_on {r : Result} {k : State → Result} (h : ∀ s, k (g.on s) = mapNext g.on (k s)) :
    andThen (mapNext g.on r) k = mapNext g.on (andThen r k) := by
  cases r with
  | next s => exact h s
  | fault e => rfl
  | refused e => rfl

theorem ite_onRegs {c : Prop} {inst inst' : Decidable c} {a b a' b' : Move} (pos : OnRegs g a' a)
    (neg : OnRegs g b' b) : OnRegs g (@ite Move c inst a' b') (@ite Move c inst' a b) := by
  by_cases h : c <;> simp [h, pos, neg]

theorem takeIn_on {s : State} {onData : Byte → State → Move} {onEnd : State → Move}
    (data : ∀ b s, OnRegs g (onData b (g.on s)) (onData b s)) (fin : ∀ s, OnRegs g (onEnd (g.on s)) (onEnd s)) :
    OnRegs g (takeIn (g.on s) onData onEnd) (takeIn s onData onEnd) := by
  unfold takeIn
  dsimp only [HostRegs.on, withHostRegs]
  cases s.inq with
  | nil => exact .wait
  | cons beat rest =>
    cases beat with
    | data b => exact ite_onRegs g (data b { s with inq := rest, inTaken := s.inTaken + 1 }) (.unit rfl)
    | fin => exact fin { s with inq := rest, inTaken := 0 }

theorem decodeMove_on {ctx : Ctx} {bs : List Byte} {cut cut' : Result} {s : State} (place : ctx ≠ .command)
    (h : cut' = mapNext g.on cut) : OnRegs g (decodeMove ctx bs cut' (g.on s)) (decodeMove ctx bs cut s) := by
  unfold decodeMove
  cases hdec : decode ctx bs with
  | ok p =>
    obtain ⟨i, rest⟩ := p
    exact .instr (ctx_of_decode hdec ▸ place)
  | error e => exact .unit h

/-! ### The encoders -/

theorem rleEncMove_on (s : State) : OnRegs g (rleEncMove (g.on s)) (rleEncMove s) :=
  takeIn_on g (fun _ _ => .unit rfl) fun _ => .unit rfl

theorem pbufAppend_on (bs : List Byte) (s : State) : pbufAppend bs (g.on s) = mapNext g.on (pbufAppend bs s) := by
  induction bs generalizing s with
  | nil => rfl
  | cons b bs ih =>
    exact ite_commutes _ rfl (ite_commutes _ rfl
      (ih { s with pbuf := Memory.write s.pbuf s.fra.plen b, fra := { s.fra with plen := s.fra.plen + 1 } }))

theorem lzcStore_on (b : Byte) (s : State) : lzcStore b (g.on s) = mapNext g.on (lzcStore b s) :=
  ite_commutes _ rfl rfl

theorem lzcStoreAll_on (bs : List Byte) (s : State) : lzcStoreAll bs (g.on s) = mapNext g.on (lzcStoreAll bs s) := by
  induction bs generalizing s with
  | nil => rfl
  | cons b bs ih =>
    rw [lzcStoreAll, lzcStoreAll, lzcStore_on]
    exact andThen_on g ih

theorem lzcOut_on (bs : List Byte) (s : State) : lzcOut bs (g.on s) = mapNext g.on (lzcOut bs s) :=
  ite_commutes _ (pbufAppend_on g bs s) rfl

theorem lzcGroupClose_on (s : State) : lzcGroupClose (g.on s) = mapNext g.on (lzcGroupClose s) := by
  unfold lzcGroupClose
  dsimp only [HostRegs.on, withHostRegs]
  cases Memory.bytes s.gbuf s.lzc.glen with
  | none => rfl
  | some bs => exact (congrArg (andThen · _) (lzcOut_on g _ s)).trans (andThen_on g fun _ => rfl)

theorem lzcToken_on (s : State) : lzcToken (g.on s) = mapNext g.on (lzcToken s) := by
  unfold lzcToken
  dsimp only [HostRegs.on, withHostRegs]
  cases Memory.bytes s.hbuf s.lzc.nIn <;> rfl

theorem lzcFinish_on (s : State) : lzcFinish (g.on s) = g.on (lzcFinish s) := by
  unfold lzcFinish
  dsimp only [HostRegs.on, withHostRegs]
  cases s.cfg.op <;> rfl

theorem lzcMove_on {s : State} {next next' : Move} (h : OnRegs g next' next) :
    OnRegs g (lzcMove (g.on s) next') (lzcMove s next) :=
  ite_onRegs g (.unit (lzcGroupClose_on g s))
    (ite_onRegs g (.unit (lzcToken_on g s))
      (ite_onRegs g (.unit (congrArg Host.Outcome.next (lzcFinish_on g s))) h))

theorem lzCompMove_on (s : State) : OnRegs g (lzCompMove (g.on s)) (lzCompMove s) :=
  lzcMove_on g (takeIn_on g (fun b s => .unit (lzcStore_on g b s)) fun _ => .unit rfl)

theorem pixelMove_on (s : State) : OnRegs g (pixelMove (g.on s)) (pixelMove s) := by
  refine takeIn_on g (fun b s => .unit ?_) fun s => .unit ?_
  · exact lzcStoreAll_on g _ { s with rlu := _ }
  · exact (congrArg (andThen · _) (lzcStoreAll_on g _ { s with rlu := _ })).trans (andThen_on g fun _ => rfl)

theorem imgEncMove_on (s : State) : OnRegs g (imgEncMove (g.on s)) (imgEncMove s) := by
  have body := lzcMove_on g (s := s) (pixelMove_on g s)
  unfold imgEncMove
  dsimp only [HostRegs.on, withHostRegs]
  cases s.fra.phase with
  | hdr => exact .unit rfl
  | body => exact body
  | idle | len | payload | fin => exact .wait

theorem fraPayload_on (s : State) : fraPayload (g.on s) = mapNext g.on (fraPayload s) := by
  refine ite_commutes _ ?_ rfl
  dsimp only [HostRegs.on, withHostRegs]
  cases Memory.read s.pbuf s.fra.pout <;> rfl

theorem vidEncMove_on (s : State) : OnRegs g (vidEncMove (g.on s)) (vidEncMove s) := by
  have body := lzcMove_on g (s := s) (pixelMove_on g s)
  unfold vidEncMove
  dsimp only [HostRegs.on, withHostRegs]
  cases s.fra.phase with
  | hdr | len | fin => exact .unit rfl
  | body => exact body
  | payload => exact .unit (fraPayload_on g s)
  | idle => exact .wait

/-! ### The decoders -/

theorem rldPad_on (s : State) : rldPad (g.on s) = g.on (rldPad s) := ite_commutes _ rfl rfl

theorem rldPadMove_on (s : State) : OnRegs g (.unit (.next (rldPad (g.on s)))) (.unit (.next (rldPad s))) :=
  .unit (congrArg Host.Outcome.next (rldPad_on g s))

theorem rleDecMove_on (s : State) : OnRegs g (rleDecMove (g.on s)) (rleDecMove s) :=
  ite_onRegs g (rldPadMove_on g s)
    (takeIn_on g (fun _ _ => decodeMove_on g (by split <;> simp) rfl) fun _ => .unit rfl)

theorem lzdPass_on (b : Byte) (s : State) : lzdPass b (g.on s) = g.on (lzdPass b s) :=
  ite_commutes _ rfl rfl

theorem lzdEmit_on (b : Byte) (s : State) : lzdEmit b (g.on s) = mapNext g.on (lzdEmit b s) :=
  ite_commutes _ (congrArg Host.Outcome.next (lzdPass_on g b { s with dhist := _, lzd := _ })) rfl

theorem lzdCopy_on (n : Nat) (s : State) : lzdCopy n (g.on s) = mapNext g.on (lzdCopy n s) := by
  induction n generalizing s with
  | zero => rfl
  | succ n ih =>
    refine ite_commutes _ rfl ?_
    dsimp only [HostRegs.on, withHostRegs]
    cases Memory.read s.dhist (s.lzd.start + s.lzd.k).toNat with
    | none => rfl
    | some b => exact (congrArg (andThen · _) (lzdEmit_on g b s)).trans (andThen_on g fun s => ih { s with lzd := _ })

theorem lzdReference_on (off : BitVec 14) (len : BitVec 12) (s : State) :
    lzdReference off len (g.on s) = mapNext g.on (lzdReference off len s) :=
  (congrArg (andThen · _) (lzdCopy_on g len.toNat { s with lzd := _ })).trans (andThen_on g fun _ => rfl)

theorem lzdByte_on (b : Byte) (s : State) : OnRegs g (lzdByte b (g.on s)) (lzdByte b s) := by
  rw [lzdByte_eq, lzdByte_eq]
  exact ite_onRegs g
    (ite_onRegs g (.instr (i := .flag b) (s := lzdCounted s) (by simp [Instr.ctx]))
      (ite_onRegs g (.instr (i := .lit b) (s := lzdCounted s) (by simp [Instr.ctx])) (.unit rfl)))
    (.unit rfl)

theorem lzdMove_on {s : State} {next next' : Move} (h : OnRegs g next' next) :
    OnRegs g (lzdMove (g.on s) next') (lzdMove s next) :=
  ite_onRegs g (decodeMove_on g (by simp) rfl) h

theorem lzDecompMove_on (s : State) : OnRegs g (lzDecompMove (g.on s)) (lzDecompMove s) :=
  lzdMove_on g (takeIn_on g (lzdByte_on g) fun _ => .unit rfl)

/-! ### FPR -/

theorem fprCollect_on (n : Nat) {ctx : Ctx} (place : ctx ≠ .command) (e : Exc) (s : State) :
    OnRegs g (fprCollect n ctx e (g.on s)) (fprCollect n ctx e s) :=
  ite_onRegs g (decodeMove_on g place rfl) (takeIn_on g (fun _ _ => .unit rfl) fun _ => .unit rfl)

theorem imgDecMove_on (s : State) : OnRegs g (imgDecMove (g.on s)) (imgDecMove s) := by
  have header := fprCollect_on g Config.imgHdrBytes (ctx := .imgHeader) (by simp) .malformedHeader s
  have bytes := takeIn_on g (s := s) (onEnd := fun s => .unit (.next (rldInputEnd s))) (lzdByte_on g) fun _ => .unit rfl
  have block := lzdMove_on g (s := s) bytes
  refine ite_onRegs g (rldPadMove_on g s) ?_
  dsimp only [HostRegs.on, withHostRegs]
  cases s.fpr.phase with
  | hdr => exact header
  | decode => exact block
  | idle | len | payload | fin => exact .wait

theorem vidHdrMove_on (s : State) : OnRegs g (vidHdrMove (g.on s)) (vidHdrMove s) := by
  have header := fprCollect_on g Config.vidHdrBytes (ctx := .vidHeader) (by simp) .malformedHeader s
  unfold vidHdrMove
  dsimp only [HostRegs.on, withHostRegs]
  cases s.fpr.phase with
  | hdr => exact header
  | idle | len | payload | decode | fin => exact .wait

theorem lzdFromPbuf_on (s : State) : OnRegs g (lzdFromPbuf (g.on s)) (lzdFromPbuf s) := by
  refine ite_onRegs g ?_ (.unit rfl)
  dsimp only [HostRegs.on, withHostRegs]
  cases Memory.read s.pbuf s.lzd.p with
  | none => exact .unit rfl
  | some b => exact lzdByte_on g b s

theorem fprPayloadByte_on (b : Byte) (s : State) : fprPayloadByte b (g.on s) = mapNext g.on (fprPayloadByte b s) :=
  ite_commutes _ rfl rfl

theorem vidFrameMove_on (s : State) : OnRegs g (vidFrameMove (g.on s)) (vidFrameMove s) := by
  have length := fprCollect_on g Config.lenFieldBytes (ctx := .frameLen) (by simp) .truncatedPayload s
  have payload := takeIn_on g (s := s) (onData := fun b s => .unit (fprPayloadByte b s))
    (onEnd := fun s => .unit (.next (raiseExc .truncatedPayload s))) (fun b s => .unit (fprPayloadByte_on g b s))
    fun _ => .unit rfl
  have block := lzdMove_on g (s := s) (lzdFromPbuf_on g s)
  refine ite_onRegs g (rldPadMove_on g s) ?_
  dsimp only [HostRegs.on, withHostRegs]
  cases s.fpr.phase with
  | len => exact length
  | payload => exact ite_onRegs g (.unit rfl) payload
  | decode => exact block
  | idle | hdr | fin => exact .wait

/-! ### Every operation -/

theorem opMove_on (s : State) : OnRegs g (opMove (g.on s)) (opMove s) := by
  unfold opMove
  dsimp only [HostRegs.on, withHostRegs]
  cases s.cfg.op with
  | none => exact .wait
  | rleEnc => exact rleEncMove_on g s
  | lzComp => exact lzCompMove_on g s
  | imgEnc => exact imgEncMove_on g s
  | vidEnc => exact vidEncMove_on g s
  | rleDec => exact rleDecMove_on g s
  | lzDecomp => exact lzDecompMove_on g s
  | imgDec => exact imgDecMove_on g s
  | vidHdr => exact vidHdrMove_on g s
  | vidFrame => exact vidFrameMove_on g s

theorem execLit_on (b : Byte) (s : State) : execLit b (g.on s) = mapNext g.on (execLit b s) :=
  (congrArg (andThen · _) (lzdEmit_on g b s)).trans (andThen_on g fun _ => rfl)

end

/-- A token but the two headers has its effect whatever stands in the registers. -/
theorem exec_on {i : Instr} (token : i.ctx ≠ .command) :
    (∀ (g : HostRegs) (s : State), exec i (g.on s) = mapNext g.on (exec i s)) ∨ (∃ w h, i = .imgHeader w h) ∨
      ∃ w h rate count, i = .vidHeader w h rate count := by
  cases i with
  | imgHeader w h => exact .inr (.inl ⟨w, h, rfl⟩)
  | vidHeader w h rate count => exact .inr (.inr ⟨w, h, rate, count, rfl⟩)
  | start | run | flag | frameLen => exact .inl fun _ _ => rfl
  | lit b => exact .inl fun g s => execLit_on g b s
  | ref11 | ref12 | ref21 | ref22 => exact .inl fun g s => lzdReference_on g _ _ s
  | _ => exact absurd rfl token

/-! ### Two runs of one move -/

theorem OnRegs.of_unit {g : HostRegs} {m : Move} {r : Result} (h : OnRegs g m (.unit r)) : m = .unit (mapNext g.on r) := by
  cases h with
  | unit h => rw [h]

theorem OnRegs.of_instr {g : HostRegs} {m : Move} {i : Instr} {s : State} (h : OnRegs g m (.instr i s)) :
    i.ctx ≠ .command ∧ m = .instr i (g.on s) := by
  cases h with
  | instr token => exact ⟨token, rfl⟩

/-- From states that agree but for the registers `g`, a move has led to `u` and to `t`: they agree but for registers that
were left alone in both. -/
structure SameMove (g : HostRegs) (s u t : State) : Prop where
  rest : withHostRegs u 0 0 0 0 0 0 = withHostRegs t 0 0 0 0 0 0
  width : (u.width = g.width ∧ t.width = s.width) ∨ u.width = t.width
  height : (u.height = g.height ∧ t.height = s.height) ∨ u.height = t.height
  rate : (u.frameRate = g.rate ∧ t.frameRate = s.frameRate) ∨ u.frameRate = t.frameRate
  count : (u.frameCount = g.count ∧ t.frameCount = s.frameCount) ∨ u.frameCount = t.frameCount
  totals : u.totalLo = g.totalLo ∧ u.totalHi = g.totalHi ∧ t.totalLo = s.totalLo ∧ t.totalHi = s.totalHi

/-- A move whose result has the registers of `s` and that does the same with others in their place. -/
theorem SameMove.of_kept {g : HostRegs} {s t : State} (kept : (hostRegsOf s).on t = t) : SameMove g s (g.on t) t := by
  rw [← kept]
  exact ⟨rfl, .inl ⟨rfl, rfl⟩, .inl ⟨rfl, rfl⟩, .inl ⟨rfl, rfl⟩, .inl ⟨rfl, rfl⟩, rfl, rfl, rfl, rfl⟩

/-- The registers of a state in their own place: what commutes with that leaves them alone. -/
theorem kept_of_mapNext {g : HostRegs} {t : State} (h : (.next t : Result) = mapNext g.on (.next t)) : g.on t = t :=
  (Host.Outcome.next.inj h).symm

theorem acceptBeat_on (g : HostRegs) (b : Beat) (rest : List Beat) (s : State) :
    acceptBeat b rest (g.on s) = g.on (acceptBeat b rest s) := by
  cases b <;> rfl

theorem exec_sameMove (g : HostRegs) {i : Instr} {s v t : State} (token : i.ctx ≠ .command)
    (kept : (hostRegsOf s).on v = v) (h : exec i v = .next t) :
    ∃ u, exec i (g.on v) = .next u ∧ SameMove g s u t := by
  rcases exec_on token with hon | ⟨w, ht, rfl⟩ | ⟨w, ht, rate, count, rfl⟩
  · have hkept := hon (hostRegsOf s) v
    rw [kept, h] at hkept
    exact ⟨g.on t, by rw [hon, h]; rfl, .of_kept (kept_of_mapNext hkept)⟩
  · cases h
    rw [← kept]
    exact ⟨_, rfl, rfl, .inr rfl, .inr rfl, .inl ⟨rfl, rfl⟩, .inl ⟨rfl, rfl⟩, rfl, rfl, rfl, rfl⟩
  · cases h
    rw [← kept]
    exact ⟨_, rfl, rfl, .inr rfl, .inr rfl, .inr rfl, .inr rfl, rfl, rfl, rfl, rfl⟩

theorem bfcMove_sameMove (g : HostRegs) {s t : State} (h : bfcMove s = some (.next t)) :
    ∃ u, bfcMove (g.on s) = some (.next u) ∧ SameMove g s u t := by
  rcases bfcMove_cases h with ⟨b, rest, hout, ready, ht⟩ | ⟨hout, busy, hmove⟩ | ⟨hout, busy, i, v, hmove, ht⟩
  · cases ht
    refine ⟨_, bfcMove_deliver hout ready, ?_⟩
    rw [acceptBeat_on]
    exact .of_kept (acceptBeat_on (hostRegsOf s) b rest s).symm
  · have same := opMove_on g s
    have kept := opMove_on (hostRegsOf s) s
    rw [hostRegsOf_on] at kept
    rw [hmove] at same kept
    exact ⟨g.on t, bfcMove_unit (s := g.on s) hout busy same.of_unit, .of_kept (kept_of_mapNext (Move.unit.inj kept.of_unit))⟩
  · have same := opMove_on g s
    have kept := opMove_on (hostRegsOf s) s
    rw [hostRegsOf_on] at kept
    rw [hmove] at same kept
    obtain ⟨token, hg⟩ := same.of_instr
    obtain ⟨-, hs⟩ := kept.of_instr
    obtain ⟨u, hu, hsame⟩ := exec_sameMove g token (Move.instr.inj hs).2.symm ht.symm
    exact ⟨u, (bfcMove_instr (s := g.on s) hout busy hg).trans (congrArg some hu), hsame⟩

/-- Settles O32: a move commutes with putting other values into the registers, so those it leaves alone stay in both runs
as they are, and a header writes its own values in both. -/
theorem registersDoNotReachRunningOp : Obligations.RegistersDoNotReachRunningOp := by
  intro s t w h rate count lo hi hmove
  obtain ⟨u, hu, same⟩ := bfcMove_sameMove ⟨w, h, rate, count, lo, hi⟩ hmove
  exact ⟨u, hu, same.rest, same.width, same.height, same.rate, same.count, same.totals⟩

end Sys2Proof.Machine
end

section
/-! PROOF. Every step keeps the invariant (10_state.md R23, R30 to R39; 20_memory.md R60 to R62): one lemma for each thing
that a unit does, and from them each step of the units, of FPR and of the host. -/

namespace Sys2Proof.Machine

/-! ### The output stream -/

/-- The running operation may put out: it is busy, it has output, FPR does not stage, and its end marker is not out. -/
structure MessageOpen (s : State) : Prop where
  busy : s.status.busy = true
  op : s.cfg.op ≠ .vidHdr
  noFin : Beat.fin ∉ s.outPend
  parsed : s.cfg.op = .imgDec ∨ s.cfg.op = .vidFrame → s.fpr.phase.staging = false

theorem stagingOk_of_not_staging {s : State} (op : s.cfg.op ≠ .vidHdr)
    (parsed : s.cfg.op = .imgDec ∨ s.cfg.op = .vidFrame → s.fpr.phase.staging = false) : StagingOk s := by
  intro stager staging
  have : s.fpr.phase.staging = false := parsed (by tauto)
  simp [this] at staging

theorem quietOk_of_outPend_nil {s : State} (h : s.outPend = []) : QuietOk s := by simp [QuietOk, h]

namespace MessageOpen

theorem stagingOk {s : State} (h : MessageOpen s) : StagingOk s := stagingOk_of_not_staging h.op h.parsed

theorem quietOk {s : State} (h : MessageOpen s) : QuietOk s :=
  ⟨fun idle => by simp [h.busy] at idle, fun op => absurd op h.op, fun hmem => h.noFin (List.mem_of_mem_dropLast hmem)⟩

theorem outBytes {s : State} (h : MessageOpen s) (bs : List Byte) : MessageOpen (outBytes bs s) :=
  { h with noFin := by simp [h.noFin] }

/-- Nothing waits on OUT at the start of a move, and FPR has parsed what it takes first. -/
theorem of_running {s : State} (run : Running s.cfg.op s) (op : s.cfg.op ≠ .vidHdr)
    (parsed : s.cfg.op = .imgDec ∨ s.cfg.op = .vidFrame → s.fpr.phase.staging = false) : MessageOpen s where
  busy := run.1
  op := op
  noFin := by simp [run.2.1]
  parsed := parsed

/-- An operation without FPR may put out from its START on. -/
theorem of_not_usesFpr {s : State} (run : Running s.cfg.op s) (op : s.cfg.op.usesFpr = false) : MessageOpen s :=
  .of_running run (fun h => by simp [h, Op.usesFpr] at op) fun h => by rcases h with h | h <;> simp [h, Op.usesFpr] at op

end MessageOpen

theorem Inv.outBytes {s : State} (h : Inv s) (msg : MessageOpen s) (bs : List Byte) : Inv (outBytes bs s) :=
  { h with staging := (msg.outBytes bs).stagingOk, quiet := (msg.outBytes bs).quietOk }

theorem Inv.outEnd {s : State} (h : Inv s) (msg : MessageOpen s) : Inv (outEnd s) :=
  { h with
    staging := stagingOk_of_not_staging msg.op msg.parsed
    quiet :=
      ⟨fun idle => absurd msg.busy (by simpa using idle), fun op => absurd op msg.op, by
        simpa [Machine.outEnd] using msg.noFin⟩ }

/-! ### Taking a beat -/

theorem Inv.fetch {inp : Option Beat} {s u : State} (h : Inv s) (hf : Fetch s inp u) : Inv u := by
  cases hf with
  | nothing => exact h
  | data inq admitted => exact { h with stream := admitted }
  | fin inq => exact { h with stream := by simp [StreamOk] }

/-! ### RLU -/

theorem rluPixel_ok {p : BitVec 1} {r : Rlu} (h : RluOk r) : RluOk (rluPixel p r).1 := by
  unfold rluPixel
  split
  · split
    · simp [RluOk]
    · rename_i started full
      have := h started
      intro _
      simp only
      have hne : r.cnt ≠ 15 := fun e => full (.inr e)
      bv_omega
  · simp [RluOk]

theorem rluPixel_length (p : BitVec 1) (r : Rlu) : (rluPixel p r).2.length ≤ 1 := by
  unfold rluPixel
  split
  · split <;> simp [encode]
  · simp [encode]

theorem rluEnd_length (r : Rlu) : (rluEnd r).2.length ≤ 1 := by
  unfold rluEnd
  split <;> simp [encode]

theorem rluInit_ok : RluOk Rlu.init := by simp [RluOk, Rlu.init]

theorem Inv.setRlu {s : State} {r : Rlu} (h : Inv s) (ok : RluOk r) : Inv { s with rlu := r } := { h with rlu := ok }

/-! ### LZC -/

theorem LzcOk.init : LzcOk Lzc.init := by simp [LzcOk, Lzc.init]

/-- Fewer bytes than the longest match stand ahead of the position while LZC waits for more (41 R152; log 12). -/
theorem nIn_lt_of_starved {l : Lzc} (h : LzcOk l) (starved : LzcStarved l) : l.nIn < l.i + Config.maxMatch := by
  obtain ⟨-, hi, -⟩ := h
  obtain ⟨-, notReady⟩ := starved
  simp only [lzcReady, Config.maxMatch, Bool.and_eq_false_iff, decide_eq_false_iff_not, Bool.or_eq_false_iff] at *
  omega

/-- At most one byte is stored where LZC waited for it. -/
theorem Inv.lzcStoreAll {bs : List Byte} {s t : State} (h : Inv s) (starved : LzcStarved s.lzc) (one : bs.length ≤ 1)
    (store : lzcStoreAll bs s = .next t) : Inv t := by
  obtain ⟨rfl, fits⟩ := lzcStoreAll_next store
  have room := nIn_lt_of_starved h.lzc starved
  obtain ⟨hn, hi, hrest⟩ := h.lzc
  obtain ⟨hh, hb⟩ := h.buffers
  obtain ⟨wh, wb⟩ := h.memory
  have hn' : s.lzc.nIn + bs.length < Config.posLimit := by
    cases bs with
    | nil => simpa using hn
    | cons b bs => exact fits (by simp)
  obtain ⟨hj, hlen, hbl, hbo, ht, hg, hgb, -⟩ := hrest
  exact
    { h with
      lzc := ⟨hn', Nat.le_trans hi (Nat.le_add_right _ _), hj, hlen, hbl, hbo, ht, hg, hgb, by dsimp only; omega⟩
      buffers := ⟨Memory.filled_writeAll bs hh, hb⟩
      memory := ⟨Memory.wf_writeAll _ bs wh, wb⟩ }

theorem Inv.lzcInputEnd {s : State} (h : Inv s) : Inv (lzcInputEnd s) := { h with lzc := h.lzc }

/-- Bytes put into PBUF fill it on. -/
theorem Inv.pbufAppend {bs : List Byte} {s t : State} (h : Inv s) (op : s.cfg.op = .vidEnc)
    (happ : pbufAppend bs s = .next t) : Inv t := by
  obtain ⟨rfl, fits⟩ := pbufAppend_next happ
  obtain ⟨hh, hp, ho, hfpr⟩ := h.containers
  obtain ⟨b1, b2, b3, benc, -⟩ := h.buffers
  obtain ⟨w1, w2, w3, w4⟩ := h.memory
  obtain ⟨hfill, hcap⟩ := benc op
  have hfit : s.fra.plen + bs.length ≤ s.pbufBytes ∧ s.fra.plen + bs.length < Config.blockLimit := by
    cases bs with
    | nil => exact ⟨hcap, hp⟩
    | cons b bs => exact fits (by simp)
  exact
    { h with
      containers := ⟨hh, hfit.2, Nat.le_trans ho (Nat.le_add_right _ _), hfpr⟩
      buffers := ⟨b1, b2, b3, fun _ => ⟨Memory.filled_writeAll bs hfill, hfit.1⟩, fun no => by simp [op] at no⟩
      memory := ⟨w1, w2, Memory.wf_writeAll _ bs w3, w4⟩ }

theorem Inv.lzcOut {bs : List Byte} {s t : State} (h : Inv s) (msg : MessageOpen s) (out : lzcOut bs s = .next t) :
    Inv t := by
  rcases lzcOut_next out with ⟨op, happ⟩ | ⟨-, rfl⟩
  · exact h.pbufAppend op happ
  · exact h.outBytes msg bs

theorem Inv.lzcGroupReset {s : State} (h : Inv s) : Inv (lzcGroupReset s) := by
  obtain ⟨hn, hi, hj, hlen, hbl, hbo, -, -, -, ha⟩ := h.lzc
  obtain ⟨b1, -, b3⟩ := h.buffers
  obtain ⟨w1, -, w3⟩ := h.memory
  exact
    { h with
      lzc := ⟨hn, hi, hj, hlen, hbl, hbo, by simp [Machine.lzcGroupReset], by simp [Machine.lzcGroupReset],
        by simp [Machine.lzcGroupReset], ha⟩
      buffers := ⟨b1, Memory.filled_nil, b3⟩
      memory := ⟨w1, Memory.wf_nil, w3⟩ }

/-- A token keeps LZC's ranges: it advances within the input (R145), and its payload has at most four bytes (R108). -/
theorem LzcOk.token {d : List Byte} {s : State} (h : LzcOk s.lzc) (room : lzcGroupFull s.lzc = false)
    (ready : lzcReady s.lzc = true) (len : d.length = s.lzc.nIn) : LzcOk (lzcTokenOn d s).lzc := by
  obtain ⟨hn, hi, hj, hlen, hbl, hbo, ht, hg, hgb, ha⟩ := h
  have hpos : s.lzc.i < d.length := by
    simp only [lzcReady, Bool.and_eq_true, decide_eq_true_eq] at ready
    omega
  have ht8 : s.lzc.t ≠ Config.group := by
    simp only [lzcGroupFull, Bool.or_eq_false_iff, decide_eq_false_iff_not] at room
    exact room.1
  obtain ⟨hoff, hmatch, -⟩ := find_le d s.lzc.i
  obtain ⟨-, hadv⟩ := tokenAdvance_bounds d s.lzc.i hpos
  obtain ⟨-, hbytes⟩ := tokenBytes_length d s.lzc.i hpos (find d s.lzc.i)
  obtain ⟨hlast, -⟩ := matchLen_le d s.lzc.i (s.lzc.i - Config.windowSize)
  simp only [Config.group, Config.gbufBytes, Config.windowSize] at *
  refine ⟨hn, ?_, ?_, ?_, hmatch, ?_, ?_, ?_, ?_, ?_⟩ <;> dsimp only [lzcTokenOn]
  · omega
  · split <;> omega
  · split
    · exact hlen
    · exact hlast
  · exact Nat.le_trans hoff (Nat.min_le_right _ _)
  · show s.lzc.t + 1 ≤ 8; omega
  · omega
  · show s.lzc.glen + _ ≤ 32; omega
  · omega

theorem Inv.lzcTokenOn {d : List Byte} {s : State} (h : Inv s) (room : lzcGroupFull s.lzc = false)
    (ready : lzcReady s.lzc = true) (read : Memory.bytes s.hbuf s.lzc.nIn = some d) : Inv (lzcTokenOn d s) := by
  obtain ⟨b1, b2, b3⟩ := h.buffers
  obtain ⟨w1, w2, w3⟩ := h.memory
  obtain ⟨d', hread, hlen, -⟩ := Memory.bytes_of_filled b1
  obtain rfl : d' = d := Option.some.inj (hread.symm.trans read)
  exact
    { h with
      lzc := h.lzc.token room ready hlen
      buffers := ⟨b1, Memory.filled_writeAll _ b2, b3⟩
      memory := ⟨w1, Memory.wf_writeAll _ _ w2, w3⟩ }

theorem Inv.lzcFinish {s : State} (h : Inv s) (msg : MessageOpen s) : Inv (lzcFinish s) := by
  unfold Machine.lzcFinish
  split
  · exact { h with containers := h.containers }
  · exact Inv.outEnd (s := { s with fra := _ }) { h with containers := h.containers } { msg with }
  · exact h.outEnd msg

theorem Inv.lzcStep {s t : State} (h : Inv s) (msg : MessageOpen s) (step : LzcStep s t) : Inv t := by
  cases step with
  | close full read out => exact (h.lzcOut msg out).lzcGroupReset
  | token room ready read => exact h.lzcTokenOn room ready read
  | finish complete => exact h.lzcFinish msg

/-! ### FRA -/

theorem encode_imgHeader_length (w h : Word) : (encode (.imgHeader w h)).length = 8 := rfl

theorem encode_vidHeader_length (w h : BitVec 16) (r c : Word) : (encode (.vidHeader w h r c)).length = 12 := rfl

theorem Inv.fraHeader {s : State} (h : Inv s) (msg : MessageOpen s) {bs : List Byte} (len : bs.length ≤ 12)
    (p : FraPhase) : Inv (fraHeader bs p s) := by
  obtain ⟨-, hrest⟩ := h.containers
  exact Inv.outBytes (s := { s with fra := { s.fra with hcnt := bs.length, phase := p } })
    { h with containers := ⟨len, hrest⟩ } { msg with } bs

/-- FRA goes to another phase. -/
theorem Inv.fraPhase {s : State} (h : Inv s) (p : FraPhase) : Inv { s with fra := { s.fra with phase := p } } :=
  { h with containers := h.containers }

theorem Inv.fraPout {s : State} (h : Inv s) (more : s.fra.pout < s.fra.plen) :
    Inv { s with fra := { s.fra with pout := s.fra.pout + 1 } } := by
  obtain ⟨hh, hp, -, hfpr⟩ := h.containers
  exact { h with containers := ⟨hh, hp, more, hfpr⟩ }

theorem Inv.fraFrameDone {s : State} (h : Inv s) (op : s.cfg.op = .vidEnc) : Inv (fraFrameDone s) := by
  obtain ⟨hh, -, -, hfpr⟩ := h.containers
  obtain ⟨-, -, b3, -, -⟩ := h.buffers
  obtain ⟨-, -, -, w4⟩ := h.memory
  exact
    { h with
      rlu := rluInit_ok
      lzc := LzcOk.init
      containers := ⟨hh, Nat.two_pow_pos 32, le_rfl, hfpr⟩
      buffers := ⟨Memory.filled_nil, Memory.filled_nil, b3, fun _ => ⟨Memory.filled_nil, Nat.zero_le _⟩,
        fun no => by simp [op] at no⟩
      memory := ⟨Memory.wf_nil, Memory.wf_nil, Memory.wf_nil, w4⟩ }

/-! ### The operations that encode -/

theorem EncStep.not_usesFpr {inp : Option Beat} {s t : State} (h : EncStep inp s t) : s.cfg.op.usesFpr = false := by
  cases h with
  | lzc op => cases hop : s.cfg.op <;> simp [hop, Op.usesLzc] at op <;> rfl
  | pixel op => rcases op with op | op <;> simp [op, Op.usesFpr]
  | pixelEnd op => rcases op with op | op <;> simp [op, Op.usesFpr]
  | rlePixel op | rleEnd op | lzcByte op | lzcEnd op | imgHeader op | vidHeader op | frameLength op | recordByte op
  | frameDone op | fileEnd op => simp [op, Op.usesFpr]

theorem Inv.encStep {inp : Option Beat} {s t : State} (h : Inv s) (run : Running s.cfg.op s) (step : EncStep inp s t) :
    Inv t := by
  have msg := MessageOpen.of_not_usesFpr run step.not_usesFpr
  cases step with
  | rlePixel op =>
    exact (h.setRlu (rluPixel_ok h.rlu)).outBytes { msg with } _
  | rleEnd op =>
    have msg' : MessageOpen { s with rlu := (rluEnd s.rlu).1 } := { msg with }
    exact ((h.setRlu rluInit_ok).outBytes msg' _).outEnd (msg'.outBytes _)
  | lzc op body lzc => exact h.lzcStep msg lzc
  | lzcByte op starved store => exact h.lzcStoreAll starved le_rfl store
  | lzcEnd op => exact h.lzcInputEnd
  | pixel op body starved store =>
    exact (h.setRlu (rluPixel_ok h.rlu)).lzcStoreAll starved (rluPixel_length _ _) store
  | pixelEnd op body starved store =>
    exact ((h.setRlu rluInit_ok).lzcStoreAll starved (rluEnd_length _) store).lzcInputEnd
  | imgHeader op phase => exact h.fraHeader msg (encode_imgHeader_length _ _ ▸ by simp) _
  | vidHeader op phase => exact h.fraHeader msg (encode_vidHeader_length _ _ _ _ ▸ le_rfl) _
  | frameLength op phase => exact (h.fraPhase .payload).outBytes { msg with } _
  | recordByte op phase more read => exact (h.fraPout more).outBytes { msg with } _
  | frameDone op phase last => exact h.fraFrameDone op
  | fileEnd op phase => exact (h.fraPhase .idle).outEnd { msg with }

/-! ### RLD -/

/-- RLD puts out no more than is missing to its total (40_run_length.md R129). -/
theorem rldByte_ok (b : Byte) {r : Rld} (h : RldOk r) : RldOk (rldByte b r).1 := by
  unfold rldByte
  split
  · exact h
  · simp only [rldRun, rldRoom, RldOk] at h ⊢
    omega

/-- RLD changes while the message is open. -/
theorem Inv.setRld {s : State} {r : Rld} (h : Inv s) (msg : MessageOpen s) (ok : RldOk r) :
    Inv { s with rld := r } ∧ MessageOpen { s with rld := r } :=
  have msg' : MessageOpen { s with rld := r } := { msg with }
  ⟨{ h with rld := ok, staging := msg'.stagingOk }, msg'⟩

theorem Inv.rldByte {s : State} (h : Inv s) (msg : MessageOpen s) (b : Byte) :
    Inv (Machine.outBytes (rldByte b s.rld).2 { s with rld := (rldByte b s.rld).1 }) :=
  have ⟨h', msg'⟩ := h.setRld msg (rldByte_ok b h.rld)
  h'.outBytes msg' _

/-- FPR goes to a phase that is neither a staging one nor the decoding one. -/
theorem Inv.fprIdle {s : State} (h : Inv s) (msg : MessageOpen s) {p : FprPhase} (hp : p = .fin ∨ p = .idle) (e : Bool) :
    Inv
        { s with
          rld := { s.rld with ending := e }
          fpr := if s.cfg.op.lzdFeedsRld then { s.fpr with phase := p } else s.fpr } ∧
      MessageOpen
        { s with
          rld := { s.rld with ending := e }
          fpr := if s.cfg.op.lzdFeedsRld then { s.fpr with phase := p } else s.fpr } := by
  obtain ⟨b1, b2, b3, benc, bframe⟩ := h.buffers
  have msg' : MessageOpen
      { s with
        rld := { s.rld with ending := e }
        fpr := if s.cfg.op.lzdFeedsRld then { s.fpr with phase := p } else s.fpr } :=
    { msg with
      parsed := fun op => by
        rcases op with op | op <;> rcases hp with rfl | rfl <;> simp_all [Op.lzdFeedsRld, FprPhase.staging] }
  refine ⟨{ h with
    containers := ?_
    buffers := ⟨b1, b2, b3, benc, fun op => ?_⟩
    staging := msg'.stagingOk }, msg'⟩
  · simp only [ContainersOk]
    split <;> exact h.containers
  · obtain ⟨hfill, hcap, -⟩ := bframe op
    have feeds : s.cfg.op.lzdFeedsRld = true := by
      have op' : s.cfg.op = .vidFrame := op
      simp [op', Op.lzdFeedsRld]
    simp only [feeds, if_true]
    exact ⟨hfill, hcap, fun no => by rcases hp with rfl | rfl <;> simp at no⟩

theorem Inv.rldInputEnd {s : State} (h : Inv s) (msg : MessageOpen s) : Inv (rldInputEnd s) :=
  (h.fprIdle msg (.inl rfl) true).1

theorem Inv.rldPad {s : State} (h : Inv s) (msg : MessageOpen s) : Inv (rldPad s) := by
  unfold Machine.rldPad
  split
  · rename_i more
    obtain ⟨hinv, msg'⟩ := h.setRld (r := { s.rld with produced := s.rld.produced + 1 }) msg more
    exact hinv.outBytes msg' _
  · obtain ⟨hinv, msg'⟩ := h.fprIdle msg (.inr rfl) s.rld.ending
    exact hinv.outEnd msg'

/-! ### LZD -/

theorem MessageOpen.lzdPass {s : State} (msg : MessageOpen s) (b : Byte) : MessageOpen (lzdPass b s) := by
  unfold Machine.lzdPass
  split
  · exact MessageOpen.outBytes (s := { s with rld := (Machine.rldByte b s.rld).1 }) { msg with } _
  · exact msg.outBytes [b]

theorem Inv.lzdPass {s : State} (h : Inv s) (msg : MessageOpen s) (b : Byte) : Inv (lzdPass b s) := by
  unfold Machine.lzdPass
  split
  · exact h.rldByte msg b
  · exact h.outBytes msg [b]

theorem MessageOpen.lzdEmit {s t : State} {b : Byte} (msg : MessageOpen s) (emit : lzdEmit b s = .next t) :
    MessageOpen t := by
  obtain ⟨-, rfl⟩ := lzdEmit_eq_next_iff.1 emit
  exact { msg.lzdPass b with }

theorem Inv.lzdEmit {s t : State} {b : Byte} (h : Inv s) (msg : MessageOpen s) (emit : lzdEmit b s = .next t) :
    Inv t := by
  unfold Machine.lzdEmit at emit
  split at emit
  · rename_i fits
    cases emit
    obtain ⟨hp, -, hrest⟩ := h.lzd
    obtain ⟨b1, b2, b3, b4⟩ := h.buffers
    obtain ⟨w1, w2, w3, w4⟩ := h.memory
    have written : Inv
        { s with dhist := Memory.write s.dhist s.lzd.outLen b, lzd := { s.lzd with outLen := s.lzd.outLen + 1 } } :=
      { h with
        lzd := ⟨hp, fits, hrest⟩
        buffers := ⟨b1, b2, Memory.filled_write b b3, b4⟩
        memory := ⟨w1, w2, w3, Memory.wf_write _ b w4⟩ }
    exact written.lzdPass { msg with } b
  · cases emit

/-- What a produced byte does to LZD's registers. -/
theorem lzd_of_lzdEmit {s t : State} {b : Byte} (emit : lzdEmit b s = .next t) :
    t.lzd = { s.lzd with outLen := s.lzd.outLen + 1 } := by
  obtain ⟨-, rfl⟩ := lzdEmit_eq_next_iff.1 emit
  rfl

/-- LZD's registers change, with DHIST and its fill count as they are. -/
theorem Inv.setLzd {s : State} {l : Lzd} (h : Inv s) (ok : LzdOk l) (fill : l.outLen = s.lzd.outLen) :
    Inv { s with lzd := l } := by
  obtain ⟨b1, b2, b3, b4⟩ := h.buffers
  exact { h with lzd := ok, buffers := ⟨b1, b2, fill ▸ b3, b4⟩ }

/-- A token done leaves a group with fewer than eight, or the place of a FLAG (42_window_decompressor.md R171). -/
theorem Inv.lzdTokenDone {s : State} (h : Inv s) (inGroup : s.lzd.phase ≠ .flag) : Inv (lzdTokenDone s) := by
  obtain ⟨hp, ho, -, hphase, hrest⟩ := h.lzd
  have ht := hphase inGroup
  refine h.setLzd ⟨hp, ho, ht, fun inToken => ?_, hrest⟩ rfl
  by_cases last : s.lzd.t + 1 = Config.group
  · simp [last] at inToken
  · exact Nat.lt_of_le_of_ne ht last

/-- After `m` of at most `n` bytes of a copy that began in `s`. -/
structure Copied (n : Nat) (s : State) (m : Nat) (u : State) : Prop where
  inv : m ≤ n → Inv u
  msg : MessageOpen u
  k : u.lzd.k = s.lzd.k + m
  phase : u.lzd.phase = s.lzd.phase

theorem Copied.byte {n m : Nat} {s u v : State} {b : Byte} (room : s.lzd.k + n < 2 ^ 12) (h : Copied n s m u)
    (emit : lzdEmit b u = .next v) : Copied n s (m + 1) { v with lzd := { v.lzd with k := v.lzd.k + 1 } } := by
  have hlzd := lzd_of_lzdEmit emit
  refine ⟨fun hm => ?_, { h.msg.lzdEmit emit with }, by simp [hlzd, h.k, Nat.add_assoc], by simp [hlzd, h.phase]⟩
  have hv := (h.inv (by omega)).lzdEmit h.msg emit
  obtain ⟨hp, ho, ht, hphase, -, hstart⟩ := hv.lzd
  refine hv.setLzd ⟨hp, ho, ht, hphase, ?_, hstart⟩ rfl
  simp only [hlzd, h.k]
  omega

/-- A copy of at most `n` bytes keeps the invariant where LZD's counter has room for them. -/
theorem Inv.lzdCopy {n : Nat} {s t : State} (h : Inv s) (msg : MessageOpen s) (room : s.lzd.k + n < 2 ^ 12)
    (copy : lzdCopy n s = .next t) : Inv t ∧ t.lzd.phase = s.lzd.phase := by
  obtain ⟨m, hm, copied⟩ := lzdCopy_induction (P := Copied n s) (m := 0) (fun _ _ _ _ hu emit => hu.byte room emit)
    ⟨fun _ => h, msg, rfl, rfl⟩ copy
  exact ⟨copied.inv (by omega), copied.phase⟩

theorem Inv.lzdReference {off : BitVec 14} {len : BitVec 12} {s t : State} (h : Inv s) (msg : MessageOpen s)
    (phase : s.lzd.phase = .copy) (run : lzdReference off len s = .next t) : Inv t := by
  obtain ⟨u, copy, done⟩ := andThen_eq_next.1 run
  cases done
  obtain ⟨hp, ho, ht, hphase, -, -⟩ := h.lzd
  have start : Inv
      { s with
        lzd := { s.lzd with off := off, len := len, k := 0, start := (s.lzd.outLen : Int) - (off.toNat : Int) } } := by
    have hoff := off.isLt
    refine h.setLzd ⟨hp, ho, ht, hphase, Nat.two_pow_pos 12, ?_, ?_⟩ rfl <;> simp only [Config.posLimit] at * <;> omega
  obtain ⟨hu, hphase'⟩ := start.lzdCopy { msg with } (by simpa using len.isLt) copy
  exact hu.lzdTokenDone (by simp [hphase', phase])

/-- The parser of back-references moves LZD's field registers and its phase within the token. -/
theorem lzdParse_ok (b : Byte) {l : Lzd} (h : LzdOk l) (inGroup : l.phase ≠ .flag) :
    LzdOk (lzdParse b l) ∧ (lzdParse b l).outLen = l.outLen := by
  obtain ⟨hp, ho, ht, hphase, hrest⟩ := h
  have room := hphase inGroup
  unfold lzdParse
  dsimp only
  split
  case h_1 => split <;> exact ⟨⟨hp, ho, ht, fun _ => room, hrest⟩, rfl⟩
  case h_3 => split <;> exact ⟨⟨hp, ho, ht, fun _ => room, hrest⟩, rfl⟩
  all_goals exact ⟨⟨hp, ho, ht, fun _ => room, hrest⟩, rfl⟩

theorem Inv.lzdByteStep {b : Byte} {s t : State} (h : Inv s) (msg : MessageOpen s) (step : LzdByteStep b s t) :
    Inv t := by
  cases step with
  | flag phase =>
    obtain ⟨hp, ho, -, -, hrest⟩ := h.lzd
    exact h.setLzd ⟨hp, ho, Nat.zero_le _, fun _ => Nat.succ_pos 7, hrest⟩ rfl
  | literal phase bit run =>
    obtain ⟨u, emit, done⟩ := andThen_eq_next.1 run
    cases done
    exact (h.lzdEmit msg emit).lzdTokenDone (by simp [lzd_of_lzdEmit emit, phase])
  | parse phase bit =>
    obtain ⟨ok, fill⟩ := lzdParse_ok b h.lzd phase
    exact h.setLzd ok fill

theorem Inv.lzdReferenceStep {s t : State} (h : Inv s) (msg : MessageOpen s) (step : LzdReferenceStep s t) :
    Inv t := by
  cases step with
  | copy phase run => exact h.lzdReference msg phase run
  | drop phase => exact h.lzdTokenDone (by simp [phase])

/-! ### The operations that decode -/

/-- While a container operation decodes, FPR no longer stages. -/
theorem Decoding.messageOpen {s : State} (h : Decoding s) (run : Running s.cfg.op s) : MessageOpen s := by
  rcases h with op | ⟨op, -, phase⟩
  · exact .of_not_usesFpr run (by simp [op, Op.usesFpr])
  · exact .of_running run (by rcases op with op | op <;> simp [op]) fun _ => by simp [phase, FprPhase.staging]

/-- RLD pads only after FPR has taken all it takes. -/
theorem Inv.messageOpen_of_ending {s : State} (h : Inv s) (run : Running s.cfg.op s) (uses : s.cfg.op.usesRld = true)
    (ending : s.rld.ending = true) : MessageOpen s := by
  refine .of_running run (fun op => by simp [op, Op.usesRld] at uses) fun op => ?_
  refine Bool.of_not_eq_true fun staging => ?_
  obtain ⟨-, hrld⟩ := h.staging (by tauto) staging run.1
  obtain ⟨-, notEnding⟩ := hrld (by rcases op with op | op <;> simp [op])
  simp [notEnding] at ending

theorem Inv.lzdCounted {s : State} (h : Inv s) (fits : s.lzd.p + 1 < Config.posLimit) : Inv (lzdCounted s) := by
  obtain ⟨-, hrest⟩ := h.lzd
  exact h.setLzd ⟨fits, hrest⟩ rfl

theorem Inv.decStep {inp : Option Beat} {s t : State} (h : Inv s) (run : Running s.cfg.op s) (step : DecStep inp s t) :
    Inv t := by
  have direct (op : s.cfg.op.usesFpr = false) : MessageOpen s := .of_not_usesFpr run op
  cases step with
  | rldByte op => exact h.rldByte (direct (by simp [op, Op.usesFpr])) _
  | rldEnd op => exact h.rldInputEnd (direct (by simp [op, Op.usesFpr]))
  | rldPad uses ending => exact h.rldPad (h.messageOpen_of_ending run uses ending)
  | lzdByte op decoding taking fits step =>
    exact (h.lzdCounted fits).lzdByteStep { decoding.messageOpen run with } step
  | pbufByte op decoding taking more read fits step =>
    exact (h.lzdCounted fits).lzdByteStep { decoding.messageOpen run with } step
  | lzdReference decoding step => exact h.lzdReferenceStep (decoding.messageOpen run) step
  | lzdEnd op => exact h.outEnd (direct (by simp [op, Op.usesFpr]))
  | fileEnd op decoding => exact h.rldInputEnd (decoding.messageOpen run)
  | payloadEnd op decoding => exact h.rldInputEnd (decoding.messageOpen run)

/-! ### FPR -/

theorem Inv.raiseExc {s : State} (h : Inv s) (run : Running s.cfg.op s) (e : Exc) : Inv (raiseExc e s) := by
  obtain ⟨busy, hout, -⟩ := run
  obtain ⟨notDone, -, -, -, -, -, notGeom⟩ := h.status
  refine { h with status := ?_, staging := fun _ _ no => by simp [statusErr] at no, quiet := quietOk_of_outPend_nil hout }
  cases e <;> simp_all [StatusOk, statusErr, Exc.code]

theorem Parses.hcnt_bound {n : Nat} {ctx : Ctx} {e : Exc} {s : State} (h : Parses s n ctx e) : n ≤ 12 := by
  cases h <;> decide

theorem Inv.fprStage {s : State} (h : Inv s) (room : s.fpr.hcnt < 12) (b : Byte) : Inv (fprStage b s) := by
  obtain ⟨f1, f2, f3, -, hlen, hgot⟩ := h.containers
  exact { h with containers := ⟨f1, f2, f3, room, by simp [hlen], hgot⟩ }

theorem Inv.fieldStep {s t : State} (h : Inv s) (run : Running s.cfg.op s) (step : FieldStep s t) : Inv t := by
  obtain ⟨b1, b2, b3, benc, bframe⟩ := h.buffers
  cases step with
  | img op phase hexec =>
    cases hexec
    obtain ⟨hout, hrld⟩ := h.staging (.inl op) (by simp [phase, FprPhase.staging]) run.1
    obtain ⟨produced, -⟩ := hrld (by simp [op])
    exact
      { h with
        containers := h.containers
        rld := by simp [RldOk, produced]
        buffers := ⟨b1, b2, b3, benc, fun no => by simp [op] at no⟩
        staging := fun _ staging => by simp [FprPhase.staging] at staging }
  | vid op phase hexec =>
    cases hexec
    obtain ⟨notDone, notErr, -, noCode, -⟩ := h.status
    have err : s.status.err = false := Bool.of_not_eq_true fun e => notErr ⟨run.1, e⟩
    exact
      { h with
        status := by simp [StatusOk, statusDone, statusGeom, err, noCode err]
        containers := h.containers
        buffers := ⟨b1, b2, b3, benc, fun no => by simp [op] at no⟩
        staging := fun _ staging => by simp [FprPhase.staging] at staging
        quiet := quietOk_of_outPend_nil run.2.1 }
  | len op phase hexec =>
    cases hexec
    obtain ⟨hfill, hcap, -⟩ := bframe op
    exact
      { h with
        containers := h.containers
        buffers := ⟨b1, b2, b3, benc, fun _ => ⟨hfill, hcap, fun no => by simp at no⟩⟩
        staging := fun stager _ => h.staging stager (by simp [phase, FprPhase.staging]) }

theorem Inv.payloadByte {s : State} (h : Inv s) (op : s.cfg.op = .vidFrame) (phase : s.fpr.phase = .payload)
    (more : s.fpr.got < s.fpr.need.toNat) (room : s.fpr.got < s.pbufBytes) (b : Byte) :
    Inv { s with pbuf := Memory.write s.pbuf s.fpr.got b, fpr := { s.fpr with got := s.fpr.got + 1 } } := by
  obtain ⟨f1, f2, f3, f4, f5, -⟩ := h.containers
  obtain ⟨b1, b2, b3, -, bframe⟩ := h.buffers
  obtain ⟨w1, w2, w3, w4⟩ := h.memory
  obtain ⟨hfill, -, -⟩ := bframe op
  exact
    { h with
      containers := ⟨f1, f2, f3, f4, f5, Nat.lt_of_le_of_lt more s.fpr.need.isLt⟩
      buffers := ⟨b1, b2, b3, fun no => by simp [op] at no, fun _ =>
        ⟨Memory.filled_write b hfill, room, fun no => by simp [phase] at no⟩⟩
      memory := ⟨w1, w2, Memory.wf_write _ b w3, w4⟩ }

theorem Inv.fprPayloadDone {s : State} (h : Inv s) (run : Running s.cfg.op s) (op : s.cfg.op = .vidFrame)
    (phase : s.fpr.phase = .payload) (all : s.fpr.need.toNat ≤ s.fpr.got) : Inv (fprPayloadDone s) := by
  obtain ⟨b1, b2, b3, -, bframe⟩ := h.buffers
  obtain ⟨hfill, hcap, -⟩ := bframe op
  obtain ⟨-, hrld⟩ := h.staging (.inr (.inr op)) (by simp [phase, FprPhase.staging]) run.1
  obtain ⟨produced, -⟩ := hrld (by simp [op])
  exact
    { h with
      containers := h.containers
      rld := by simp [RldOk, Machine.fprPayloadDone, produced]
      buffers := ⟨b1, b2, b3, fun no => by simp [Machine.fprPayloadDone, op] at no, fun _ => ⟨hfill, hcap, fun _ => all⟩⟩
      staging := fun _ staging => by simp [Machine.fprPayloadDone, FprPhase.staging] at staging }

theorem Inv.fprStep {inp : Option Beat} {s t : State} (h : Inv s) (run : Running s.cfg.op s) (step : FprStep inp s t) :
    Inv t := by
  cases step with
  | stage parses more => exact h.fprStage (Nat.lt_of_lt_of_le more parses.hcnt_bound) _
  | short parses more => exact h.raiseExc run _
  | garbled parses whole read => exact h.raiseExc run _
  | field parses whole step => exact h.fieldStep run step
  | payloadByte op phase more room => exact h.payloadByte op phase more room _
  | payloadShort op phase more => exact h.raiseExc run _
  | payloadDone op phase all => exact h.fprPayloadDone run op phase all

/-! ### Moves of BFC -/

theorem Inv.acceptBeat {s : State} {b : Beat} {rest : List Beat} (h : Inv s) (hout : s.outPend = b :: rest) :
    Inv (acceptBeat b rest s) := by
  have busy := h.busy_of_outPend (by simp [hout])
  obtain ⟨-, header, last⟩ := h.quiet
  rw [hout] at last
  have op : s.cfg.op ≠ .vidHdr := fun op => by simp [hout] at header; exact header op
  cases b with
  | data v =>
    refine { h with staging := fun stager staging hb => ?_, quiet := ⟨fun idle => ?_, fun no => absurd no op, ?_⟩ }
    · obtain ⟨none, -⟩ := h.staging stager staging hb
      simp [hout] at none
    · exact absurd (busy.symm.trans idle) (by decide)
    · cases rest with
      | nil => simp [Machine.acceptBeat]
      | cons c rest => simpa [Machine.acceptBeat] using last
  | fin =>
    obtain rfl : rest = [] := by
      cases rest with
      | nil => rfl
      | cons c rest => simp at last
    obtain ⟨-, notErr, -, noCode, -⟩ := h.status
    have err : s.status.err = false := Bool.of_not_eq_true fun e => notErr ⟨busy, e⟩
    exact
      { h with
        status := by simp [Machine.acceptBeat, StatusOk, statusDone, statusGeom, err, noCode err]
        staging := fun _ _ no => by simp [Machine.acceptBeat, statusDone] at no
        quiet := quietOk_of_outPend_nil rfl }

theorem Inv.bfcMove {s t : State} (h : Inv s) (move : bfcMove s = some (.next t)) : Inv t := by
  rcases bfcMove_next_cases move with ⟨b, rest, hout, rfl⟩ | ⟨run, hop⟩
  · exact h.acceptBeat hout
  · obtain ⟨inp, u, hf, hstep⟩ := opMove_leadsTo hop
    have hu := h.fetch hf
    have run' : Running u.cfg.op u := by
      rw [hf.frame]
      exact run
    cases hstep with
    | enc step => exact hu.encStep run' step
    | dec step => exact hu.decStep run' step
    | fpr step => exact hu.fprStep run' step

/-! ### Acts of the host -/

theorem acceptStart_outPend (op : Op) (f : CmdFields) (s : State) : (acceptStart op f s).outPend = s.outPend := by
  cases op <;> rfl

/-- Without FPR nothing is staged. -/
theorem stagingOk_of_not_usesFpr {s : State} (op : s.cfg.op.usesFpr = false) : StagingOk s := by
  rintro (h | h | h) <;> simp [h, Op.usesFpr] at op

theorem statusStarted_ok : StatusOk statusStarted := by simp [StatusOk, statusStarted]

/-- An accepted START (R224) puts the units of its operation at their start values, and nothing waits on OUT. -/
theorem Inv.acceptStart {s : State} (h : Inv s) (idle : s.status.busy = false) (op : Op) (f : CmdFields) :
    Inv (acceptStart op f s) := by
  obtain ⟨hquiet, -⟩ := h.quiet
  have hout := hquiet idle
  have quiet := quietOk_of_outPend_nil (s := Machine.acceptStart op f s) (by rw [acceptStart_outPend, hout])
  have start := inv_resetBfc h.stream
  obtain ⟨f1, f2, f3, p1⟩ := h.containers
  obtain ⟨b1, b2, b3, -, -⟩ := h.buffers
  obtain ⟨w1, w2, w3, w4⟩ := h.memory
  have status := statusStarted_ok
  cases op with
  | none =>
    exact
      { h with
        status := status, quiet := quiet, staging := stagingOk_of_not_usesFpr rfl, buffers := ⟨b1, b2, b3, nofun, nofun⟩ }
  | rleEnc =>
    exact
      { h with
        status := status, quiet := quiet, staging := stagingOk_of_not_usesFpr rfl, buffers := ⟨b1, b2, b3, nofun, nofun⟩
        rlu := start.rlu }
  | lzComp =>
    exact
      { h with
        status := status, quiet := quiet, staging := stagingOk_of_not_usesFpr rfl, lzc := start.lzc
        buffers := ⟨Memory.filled_nil, Memory.filled_nil, b3, nofun, nofun⟩
        memory := ⟨Memory.wf_nil, Memory.wf_nil, w3, w4⟩ }
  | imgEnc =>
    exact
      { h with
        status := status, quiet := quiet, staging := stagingOk_of_not_usesFpr rfl, rlu := start.rlu, lzc := start.lzc
        containers := ⟨Nat.zero_le _, Nat.two_pow_pos 32, le_rfl, p1⟩
        buffers := ⟨Memory.filled_nil, Memory.filled_nil, b3, nofun, nofun⟩
        memory := ⟨Memory.wf_nil, Memory.wf_nil, w3, w4⟩ }
  | vidEnc =>
    exact
      { h with
        status := status, quiet := quiet, staging := stagingOk_of_not_usesFpr rfl, rlu := start.rlu, lzc := start.lzc
        containers := ⟨Nat.zero_le _, Nat.two_pow_pos 32, le_rfl, p1⟩
        buffers := ⟨Memory.filled_nil, Memory.filled_nil, b3, fun _ => ⟨Memory.filled_nil, Nat.zero_le _⟩, nofun⟩
        memory := ⟨Memory.wf_nil, Memory.wf_nil, Memory.wf_nil, w4⟩ }
  | rleDec =>
    exact
      { h with
        status := status, quiet := quiet, staging := stagingOk_of_not_usesFpr rfl, buffers := ⟨b1, b2, b3, nofun, nofun⟩
        rld := Nat.zero_le _ }
  | lzDecomp =>
    exact
      { h with
        status := status, quiet := quiet, staging := stagingOk_of_not_usesFpr rfl, lzd := start.lzd
        buffers := ⟨b1, b2, Memory.filled_nil, nofun, nofun⟩
        memory := ⟨w1, w2, w3, Memory.wf_nil⟩ }
  | imgDec =>
    exact
      { h with
        status := status, quiet := quiet, staging := fun _ _ _ => ⟨hout, fun _ => ⟨rfl, rfl⟩⟩, lzd := start.lzd
        rld := Nat.zero_le _
        containers := ⟨f1, f2, f3, Nat.zero_le _, rfl, Nat.two_pow_pos 32⟩
        buffers := ⟨b1, b2, Memory.filled_nil, nofun, nofun⟩
        memory := ⟨w1, w2, w3, Memory.wf_nil⟩ }
  | vidHdr =>
    exact
      { h with
        status := status, quiet := quiet, staging := fun _ _ _ => ⟨hout, fun no => absurd rfl no⟩
        containers := ⟨f1, f2, f3, Nat.zero_le _, rfl, Nat.two_pow_pos 32⟩
        buffers := ⟨b1, b2, b3, nofun, nofun⟩ }
  | vidFrame =>
    exact
      { h with
        status := status, quiet := quiet, staging := fun _ _ _ => ⟨hout, fun _ => ⟨rfl, rfl⟩⟩, lzd := start.lzd
        rld := Nat.zero_le _
        containers := ⟨f1, f2, f3, Nat.zero_le _, rfl, Nat.two_pow_pos 32⟩
        buffers := ⟨b1, b2, Memory.filled_nil, nofun, fun _ => ⟨Memory.filled_nil, Nat.zero_le _, nofun⟩⟩
        memory := ⟨w1, w2, Memory.wf_nil, Memory.wf_nil⟩ }

theorem Inv.hostStep {a : HostAct} {s t : State} (h : Inv s) (step : HostStep s a t) : Inv t := by
  cases step with
  | write c w ht r k lo hi held => exact { h with }
  | start idle => exact Inv.acceptStart (s := { s with regAddr := 0 }) { h with } idle _ _
  | read | offer | ready => exact { h with }
  | reset => exact inv_resetBfc h.stream

/-- Settles O34: the moves of BFC and the acts of the host keep each clause. -/
theorem stepKeepsInv : Obligations.StepKeepsInv := by
  intro s t h hstep
  rcases step_next_cases hstep with ⟨script, hmove⟩ | ⟨a, n, rest, -, hact⟩ | rfl
  · exact Inv.bfcMove (s := { s with script := script }) { h with } hmove
  · exact Inv.hostStep (s := { s with script := rest }) { h with } hact
  · exact h

end Sys2Proof.Machine
end

section
/-! PROOF. No read of a buffer byte that has not been written (20_memory.md R60 to R62): every buffer is read below its
fill count, whatever move BFC makes, and an act of the host reads none. -/

namespace Sys2Proof.Machine

/-! ### Outcomes without a fault -/

/-- The outcome is no fault. -/
def Faultless (r : Result) : Prop := ∀ e, r ≠ .fault e

theorem faultless_next (s : State) : Faultless (.next s) := nofun
theorem faultless_refused (e : Refusal) : Faultless (.refused e) := nofun

theorem Faultless.andThen {r : Result} {f : State → Result} (h : Faultless r)
    (rest : ∀ s, r = .next s → Faultless (f s)) : Faultless (andThen r f) := by
  intro e fault
  rcases andThen_eq_fault.1 fault with here | ⟨s, next, later⟩
  · exact h e here
  · exact rest s next e later

/-- BFC's move ends in no fault. -/
def Move.Faultless : Move → Prop
  | .wait => True
  | .unit r => Machine.Faultless r
  | .instr i s => Machine.Faultless (exec i s)

theorem takeIn_faultless {s : State} {onData : Byte → State → Move} {onEnd : State → Move}
    (data : ∀ b u, (onData b u).Faultless) (fin : ∀ u, (onEnd u).Faultless) : (takeIn s onData onEnd).Faultless := by
  rcases takeIn_cases s onData onEnd with ⟨-, e⟩ | ⟨b, rest, -, -, e⟩ | ⟨b, rest, -, -, e⟩ | ⟨rest, -, e⟩ <;> rw [e]
  · trivial
  · exact data b _
  · exact faultless_refused _
  · exact fin _

theorem decodeMove_faultless {ctx : Ctx} {bs : List Byte} {cut : Result} {s : State}
    (read : ∀ i : Instr, i.ctx = ctx → Faultless (exec i s)) (garbled : Faultless cut) :
    (decodeMove ctx bs cut s).Faultless := by
  unfold decodeMove
  split
  · rename_i i rest hdec
    exact read i (ctx_of_decode hdec)
  · exact garbled

/-! ### Instructions -/

theorem lzdEmit_faultless (b : Byte) (s : State) : Faultless (lzdEmit b s) := by
  unfold lzdEmit
  split
  · exact faultless_next _
  · exact faultless_refused _

/-- A copy reads DHIST between position 0 and the end of the output alone (42_window_decompressor.md R175), and every
byte it emits fills DHIST on. -/
theorem lzdCopy_faultless {n : Nat} {s : State} (h : Memory.filled s.dhist s.lzd.outLen) : Faultless (lzdCopy n s) := by
  induction n generalizing s with
  | zero => exact faultless_next s
  | succ n ih =>
    simp only [lzdCopy]
    split
    · exact faultless_next s
    · rename_i inside
      obtain ⟨b, hread⟩ := Memory.read_of_filled (a := (s.lzd.start + s.lzd.k).toNat) h (by omega)
      rw [hread]
      refine (lzdEmit_faultless b s).andThen fun u emit => ih ?_
      obtain ⟨-, rfl⟩ := lzdEmit_eq_next_iff.1 emit
      exact Memory.filled_write b h

theorem lzdReference_faultless {off : BitVec 14} {len : BitVec 12} {s : State}
    (h : Memory.filled s.dhist s.lzd.outLen) : Faultless (lzdReference off len s) :=
  Faultless.andThen (lzdCopy_faultless h) fun _ _ => faultless_next _

theorem startOp_faultless (op : Op) (f : CmdFields) (s : State) : Faultless (startOp op f s) := by
  unfold startOp
  split <;> exact faultless_next _

theorem storeReserved_faultless (code : BitVec 4) (f : CmdFields) (s : State) : Faultless (storeReserved code f s) := by
  unfold storeReserved
  split <;> exact faultless_next _

/-- A back-reference alone reads a buffer. -/
theorem exec_faultless {i : Instr} (s : State) (place : i.ctx ≠ .reference) : Faultless (exec i s) := by
  cases i with
  | rleEnc | lzComp | imgEnc | vidEnc | rleDec | lzDecomp | imgDec | vidHdr | vidFrame => exact startOp_faultless _ _ s
  | reservedOp0 | reservedOp10 | reservedOp11 | reservedOp12 | reservedOp13 | reservedOp14 | reservedOp15 =>
    exact storeReserved_faultless _ _ s
  | start | run | flag | imgHeader | vidHeader | frameLen => exact faultless_next _
  | lit b => exact (lzdEmit_faultless b s).andThen fun _ _ => faultless_next _
  | ref11 | ref12 | ref21 | ref22 => exact absurd rfl place

theorem exec_reference_faultless {i : Instr} {s : State} (place : i.ctx = .reference)
    (h : Memory.filled s.dhist s.lzd.outLen) : Faultless (exec i s) := by
  obtain ⟨off, len, copy⟩ := exec_of_ctx_reference place
  exact copy s ▸ lzdReference_faultless h

/-- What stands at any place but that of a back-reference is fetched and run without a fault. -/
theorem decodeMove_faultless_of_ne {ctx : Ctx} {bs : List Byte} {t s : State} (place : ctx ≠ .reference) :
    (decodeMove ctx bs (.next t) s).Faultless :=
  decodeMove_faultless (fun _ hctx => exec_faultless s (hctx ▸ place)) (faultless_next t)

/-! ### The units that encode -/

theorem lzcOut_faultless (bs : List Byte) (s : State) : Faultless (lzcOut bs s) := by
  unfold lzcOut
  split
  · exact pbufAppend_not_fault bs s
  · exact faultless_next _

/-- The group-close step reads GBUF below `glen` (41_window_compressor.md R152). -/
theorem lzcGroupClose_faultless {s : State} (h : Memory.filled s.gbuf s.lzc.glen) : Faultless (lzcGroupClose s) := by
  obtain ⟨g, hread, -⟩ := Memory.bytes_of_filled h
  simp only [lzcGroupClose, hread]
  exact (lzcOut_faultless _ s).andThen fun _ _ => faultless_next _

/-- The token step reads HBUF below `nIn` (R152). -/
theorem lzcToken_faultless {s : State} (h : Memory.filled s.hbuf s.lzc.nIn) : Faultless (lzcToken s) := by
  obtain ⟨d, hread, -⟩ := Memory.bytes_of_filled h
  simp only [lzcToken, hread]
  exact faultless_next _

theorem lzcMove_faultless {s : State} {next : Move} (h : BuffersOk s) (hnext : next.Faultless) :
    (lzcMove s next).Faultless := by
  obtain ⟨hbuf, gbuf, -⟩ := h
  unfold lzcMove
  split
  · exact lzcGroupClose_faultless gbuf
  split
  · exact lzcToken_faultless hbuf
  split
  · exact faultless_next _
  · exact hnext

theorem lzcStore_faultless (b : Byte) (s : State) : Faultless (lzcStore b s) := by
  unfold lzcStore
  split
  · exact faultless_next _
  · exact faultless_refused _

theorem pixelMove_faultless (s : State) : (pixelMove s).Faultless :=
  takeIn_faultless (fun _ _ => lzcStoreAll_not_fault _ _) fun _ =>
    Faultless.andThen (lzcStoreAll_not_fault _ _) fun _ _ => faultless_next _

/-- FRA reads PBUF below `plen` (44_multi_frame.md R201). -/
theorem fraPayload_faultless {s : State} (h : Memory.filled s.pbuf s.fra.plen) : Faultless (fraPayload s) := by
  unfold fraPayload
  split
  · rename_i more
    obtain ⟨b, hread⟩ := Memory.read_of_filled h more
    rw [hread]
    exact faultless_next _
  · exact faultless_next _

theorem lzCompMove_faultless {s : State} (h : BuffersOk s) : (lzCompMove s).Faultless :=
  lzcMove_faultless h (takeIn_faultless (fun b u => lzcStore_faultless b u) fun _ => faultless_next _)

theorem imgEncMove_faultless {s : State} (h : BuffersOk s) : (imgEncMove s).Faultless := by
  unfold imgEncMove
  cases s.fra.phase with
  | hdr => exact faultless_next _
  | body => exact lzcMove_faultless h (pixelMove_faultless s)
  | idle | len | payload | fin => trivial

theorem vidEncMove_faultless {s : State} (op : s.cfg.op = .vidEnc) (h : BuffersOk s) : (vidEncMove s).Faultless := by
  have ⟨_, _, _, record, _⟩ := h
  obtain ⟨pbuf, -⟩ := record op
  unfold vidEncMove
  cases s.fra.phase with
  | hdr | len | fin => exact faultless_next _
  | body => exact lzcMove_faultless h (pixelMove_faultless s)
  | payload => exact fraPayload_faultless pbuf
  | idle => trivial

/-! ### The units that decode -/

theorem lzdByte_faultless (b : Byte) (s : State) : (lzdByte b s).Faultless := by
  rw [lzdByte_eq]
  split
  · split
    · exact exec_faultless _ (by simp [Instr.ctx])
    split
    · exact exec_faultless _ (by simp [Instr.ctx])
    · exact faultless_next _
  · exact faultless_refused _

theorem lzdMove_faultless {s : State} {next : Move} (h : BuffersOk s) (hnext : next.Faultless) :
    (lzdMove s next).Faultless := by
  obtain ⟨-, -, dhist, -⟩ := h
  unfold lzdMove
  split
  · exact decodeMove_faultless (fun _ place => exec_reference_faultless place dhist) (faultless_next _)
  · exact hnext

theorem fprCollect_faultless (n : Nat) {ctx : Ctx} (place : ctx ≠ .reference) (e : Exc) (s : State) :
    (fprCollect n ctx e s).Faultless := by
  unfold fprCollect
  split
  · exact decodeMove_faultless_of_ne place
  · exact takeIn_faultless (fun _ _ => faultless_next _) fun _ => faultless_next _

theorem fprPayloadByte_faultless (b : Byte) (s : State) : Faultless (fprPayloadByte b s) := by
  unfold fprPayloadByte
  split
  · exact faultless_refused _
  · exact faultless_next _

/-- LZD reads the payload of a record, all of which stands in PBUF (44_multi_frame.md R206). -/
theorem lzdFromPbuf_faultless {s : State} (h : Memory.filled s.pbuf s.fpr.got) (whole : s.fpr.need.toNat ≤ s.fpr.got) :
    (lzdFromPbuf s).Faultless := by
  unfold lzdFromPbuf
  split
  · rename_i more
    obtain ⟨b, hread⟩ := Memory.read_of_filled h (Nat.lt_of_lt_of_le more whole)
    rw [hread]
    exact lzdByte_faultless b s
  · exact faultless_next _

theorem rleDecMove_faultless (s : State) : (rleDecMove s).Faultless := by
  unfold rleDecMove
  split
  · exact faultless_next _
  · exact takeIn_faultless (fun _ _ => decodeMove_faultless_of_ne (by split <;> simp)) fun _ => faultless_next _

theorem lzDecompMove_faultless {s : State} (h : BuffersOk s) : (lzDecompMove s).Faultless :=
  lzdMove_faultless h (takeIn_faultless lzdByte_faultless fun _ => faultless_next _)

theorem imgDecMove_faultless {s : State} (h : BuffersOk s) : (imgDecMove s).Faultless := by
  unfold imgDecMove
  split
  · exact faultless_next _
  cases s.fpr.phase with
  | hdr => exact fprCollect_faultless _ (by simp) _ s
  | decode => exact lzdMove_faultless h (takeIn_faultless lzdByte_faultless fun _ => faultless_next _)
  | idle | len | payload | fin => trivial

theorem vidHdrMove_faultless (s : State) : (vidHdrMove s).Faultless := by
  unfold vidHdrMove
  cases s.fpr.phase with
  | hdr => exact fprCollect_faultless _ (by simp) _ s
  | idle | len | payload | decode | fin => trivial

theorem vidFrameMove_faultless {s : State} (op : s.cfg.op = .vidFrame) (h : BuffersOk s) :
    (vidFrameMove s).Faultless := by
  have ⟨_, _, _, _, record⟩ := h
  obtain ⟨pbuf, -, whole⟩ := record op
  unfold vidFrameMove
  split
  · exact faultless_next _
  cases phase : s.fpr.phase with
  | len => exact fprCollect_faultless _ (by simp) _ s
  | payload =>
    dsimp only
    split
    · exact faultless_next _
    · exact takeIn_faultless (fun b u => fprPayloadByte_faultless b u) fun _ => faultless_next _
  | decode => exact lzdMove_faultless h (lzdFromPbuf_faultless pbuf (whole phase))
  | idle | hdr | fin => trivial

/-! ### Every step -/

theorem opMove_faultless {s : State} (h : BuffersOk s) : (opMove s).Faultless := by
  unfold opMove
  cases op : s.cfg.op with
  | none => trivial
  | rleEnc => exact takeIn_faultless (fun _ _ => faultless_next _) fun _ => faultless_next _
  | lzComp => exact lzCompMove_faultless h
  | imgEnc => exact imgEncMove_faultless h
  | vidEnc => exact vidEncMove_faultless op h
  | rleDec => exact rleDecMove_faultless s
  | lzDecomp => exact lzDecompMove_faultless h
  | imgDec => exact imgDecMove_faultless h
  | vidHdr => exact vidHdrMove_faultless s
  | vidFrame => exact vidFrameMove_faultless op h

theorem bfcMove_faultless {s : State} {r : Result} (h : BuffersOk s) (move : bfcMove s = some r) : Faultless r := by
  have hop := opMove_faultless h
  rcases bfcMove_cases move with ⟨b, rest, -, -, rfl⟩ | ⟨-, -, unit⟩ | ⟨-, -, i, u, instr, rfl⟩
  · exact faultless_next _
  · rwa [unit] at hop
  · rwa [instr] at hop

theorem writeCtrl_faultless (v : Word) (s : State) : Faultless (writeCtrl v s) := by
  unfold writeCtrl
  split
  · rename_i i hdec
    exact exec_faultless s (by simp [ctx_of_decodeCommand hdec])
  · exact faultless_next _

theorem hostAct_faultless (a : HostAct) (s : State) : Faultless (hostAct a s) := by
  cases a with
  | write n v =>
    simp only [hostAct]
    split
    · exact writeCtrl_faultless v _
    · exact faultless_next _
  | read | offer | ready | reset => exact faultless_next _

/-- Settles O35: with every buffer filled up to its count, a move of BFC finds each byte that it reads. -/
theorem noStepFaults : Obligations.NoStepFaults := by
  intro s e h
  rcases step_cases s with ⟨script, r, move, hstep⟩ | ⟨a, n, rest, -, hstep⟩ | hstep <;> rw [hstep]
  · exact bfcMove_faultless (s := { s with script := script }) h.buffers move e
  · exact hostAct_faultless a _ e
  · exact faultless_next s e

end Sys2Proof.Machine
end

section
/-! PROOF. Big-endian fields as numbers (20_memory.md R53): a byte of a word is a digit to the base 256, and joining
words adds the digits at their places. -/

namespace Sys2Proof

/-- Byte `k` bits up of a word is its quotient by `2 ^ k`, as a byte. -/
theorem extractByte_eq_ofNat {n : Nat} (v : BitVec n) (k : Nat) :
    v.extractLsb' k 8 = BitVec.ofNat 8 (v.toNat / 2 ^ k) :=
  congrArg (BitVec.ofNat 8) (Nat.shiftRight_eq_div_pow v.toNat k)

/-- A byte takes a number modulo 256. -/
theorem byte_ofNat_mod (x : Nat) : BitVec.ofNat 8 (x % 256) = BitVec.ofNat 8 x :=
  BitVec.eq_of_toNat_eq (by simp)

/-- The first of two words that are joined counts by the width of the second. -/
theorem toNat_append_eq {m n : Nat} (x : BitVec m) (y : BitVec n) : (x ++ y).toNat = x.toNat * 2 ^ n + y.toNat := by
  rw [BitVec.toNat_append, ← Nat.shiftLeft_add_eq_or_of_lt y.isLt, Nat.shiftLeft_eq]

theorem be16_eq (v : BitVec 16) : be16 v = [BitVec.ofNat 8 (v.toNat / 256), BitVec.ofNat 8 (v.toNat % 256)] := by
  simp only [be16, extractByte_eq_ofNat, byte_ofNat_mod, pow_zero, Nat.div_one, Nat.reducePow]

theorem be32_eq (v : BitVec 32) :
    be32 v =
      [BitVec.ofNat 8 (v.toNat / 2 ^ 24), BitVec.ofNat 8 (v.toNat / 2 ^ 16 % 256),
        BitVec.ofNat 8 (v.toNat / 2 ^ 8 % 256), BitVec.ofNat 8 (v.toNat % 256)] := by
  simp only [be32, extractByte_eq_ofNat, byte_ofNat_mod, pow_zero, Nat.div_one]

theorem unbe16_toNat (a b : Byte) : (unbe16 a b).toNat = a.toNat * 256 + b.toNat := toNat_append_eq a b

theorem unbe32_toNat (a b c d : Byte) :
    (unbe32 a b c d).toNat = a.toNat * 2 ^ 24 + b.toNat * 2 ^ 16 + c.toNat * 2 ^ 8 + d.toNat := by
  simp only [unbe32, toNat_append_eq]
  omega

/-- Settles O6: each function of R53 by its own equation. -/
theorem bigEndianFields : Obligations.BigEndianFields := ⟨be16_eq, be32_eq, unbe16_toNat, unbe32_toNat⟩

end Sys2Proof
end

section
/-! PROOF. The output stream (20_memory.md R65, R71, R74): a beat on the port goes to a ready host, and BFC makes no
other move while one waits. -/

namespace Sys2Proof.Machine

/-- In BFC's turn a step is BFC's move, if it has one. -/
theorem BfcTurn.step_eq {s s0 : State} {r : Result} (turn : BfcTurn s s0) (move : bfcMove s0 = some r) :
    step s = r := by
  rcases turn with ⟨plan, rfl⟩ | ⟨n, a, rest, plan, rfl⟩
  · rw [step_of_no_script plan, move, Option.getD_some]
  · simp only [step, plan, move]

/-- With nothing planned it is BFC's turn in the state as it stands. -/
theorem BfcTurn.eq_of_no_script {s s0 : State} (turn : BfcTurn s s0) (plan : s.script = []) : s0 = s := by
  rcases turn with ⟨-, same⟩ | ⟨n, a, rest, planned, -⟩
  · exact same
  · simp [plan] at planned

/-- A step waits where nothing is planned and BFC has no move (45_binarize_and_control.md R226, log 3). -/
theorem step_of_stuck {s : State} (plan : s.script = []) (stuck : bfcMove s = none) : step s = .next s := by
  rw [step_of_no_script plan, stuck, Option.getD_none]

/-- A beat that the host does not take keeps BFC from moving (R71, log 8). -/
theorem bfcMove_held {s : State} {b : Beat} {rest : List Beat} (h : s.outPend = b :: rest)
    (notReady : s.outReady = false) : bfcMove s = none := by
  simp [bfcMove, h, notReady]

/-- RLD stands behind LZD in the two operations whose geometry can be zero (60_exceptions.md R233). -/
theorem lzdFeedsRld_eq (op : Op) : op.lzdFeedsRld = (op == .imgDec || op == .vidFrame) := by
  cases op <;> rfl

/-- The end marker accepted: the operation ends (45_binarize_and_control.md R225). -/
theorem acceptBeat_fin (rest : List Beat) (s : State) :
    acceptBeat .fin rest s =
      { s with
        outPend := rest
        received := s.received ++ [.fin]
        status :=
          { s.status with
            busy := false, done := true
            geom0 := s.status.geom0 || ((s.cfg.op == .imgDec || s.cfg.op == .vidFrame) && s.rld.total == 0) }
        fidx := if s.cfg.op = .vidFrame then s.fidx + 1 else s.fidx } := by
  rw [← lzdFeedsRld_eq]
  rfl

/-- Settles O23: with a beat on the port a ready host gets it, which is BFC's move, and another leaves BFC none. -/
theorem outputInOrder : Obligations.OutputInOrder := by
  intro s s0 b rest turn hout
  have deliver (ready : s0.outReady = true) : step s = .next (acceptBeat b rest s0) :=
    turn.step_eq (bfcMove_deliver hout ready)
  refine ⟨by simp [outValid, hout], ?_, ?_, fun notReady => ?_, ?_, ?_⟩
  · rintro v rfl
    simp [outData, outEndPin, hout]
  · rintro rfl
    simp [outData, outEndPin, hout]
  · have stuck := bfcMove_held hout notReady
    exact ⟨stuck, fun plan => step_of_stuck plan (turn.eq_of_no_script plan ▸ stuck)⟩
  · rintro ready v rfl
    exact deliver ready
  · rintro ready rfl
    rw [deliver ready, acceptBeat_fin]

end Sys2Proof.Machine
end

section
/-! PROOF. The pin `in_ready` (20_memory.md R71): in every state the running operation takes the beat on IN whatever it
is, or makes a move that leaves IN alone, or waits, and what is on IN and what the host plans do not decide which. -/

namespace Sys2Proof.Machine

/-! ### Moves that leave IN alone -/

theorem Works.inq_eq {s t : State} (h : Works s t) : t.inq = s.inq := by rw [h.frame]

theorem lzdEmit_inq {b : Byte} {s t : State} (h : lzdEmit b s = .next t) : t.inq = s.inq := by
  obtain ⟨-, rfl⟩ := lzdEmit_eq_next_iff.1 h
  exact (lzdPass_works b s).inq_eq

theorem lzdReference_inq {off : BitVec 14} {len : BitVec 12} {s t : State} (h : lzdReference off len s = .next t) :
    t.inq = s.inq := by
  obtain ⟨u, copy, done⟩ := andThen_eq_next.1 h
  cases done
  obtain ⟨-, -, hu⟩ := lzdCopy_induction (P := fun _ u => u.inq = s.inq) (m := 0)
    (fun _ _ _ _ hu emit => (lzdEmit_inq emit).trans hu) (by rfl) copy
  exact hu

/-- No instruction takes a beat: its bytes have been fetched before. -/
theorem exec_inq {i : Instr} {s t : State} (h : exec i s = .next t) : t.inq = s.inq := by
  by_cases command : i.ctx = .command
  · rcases exec_command_next command h with ⟨-, rfl⟩ | ⟨-, ⟨op, f, rfl⟩ | ⟨c, rfl⟩⟩
    · rfl
    · cases op <;> rfl
    · rfl
  by_cases reference : i.ctx = .reference
  · obtain ⟨off, len, copy⟩ := exec_of_ctx_reference reference
    exact lzdReference_inq (copy s ▸ h)
  cases i with
  | start | run | flag | imgHeader | vidHeader | frameLen => cases h; rfl
  | lit b =>
    obtain ⟨u, emit, done⟩ := andThen_eq_next.1 h
    cases done
    exact lzdEmit_inq (t := u) emit
  | ref11 | ref12 | ref21 | ref22 => exact absurd rfl reference
  | _ => exact absurd rfl command

/-- BFC makes a move, and IN is after it as it is in `s`. -/
structure Move.KeepsInput (s : State) (m : Move) : Prop where
  made : m.waits = false
  inq_eq : ∀ t, m.LeadsTo t → t.inq = s.inq

namespace Move.KeepsInput

theorem unit {s : State} {r : Result} (h : ∀ t, r = .next t → t.inq = s.inq) : KeepsInput s (.unit r) := ⟨rfl, h⟩

theorem next {s t : State} (h : t.inq = s.inq) : KeepsInput s (.unit (.next t)) := unit fun _ e => by cases e; exact h

theorem fault (e : Fault) {s : State} : KeepsInput s (.unit (.fault e)) := unit fun _ no => by cases no

theorem refused (e : Refusal) {s : State} : KeepsInput s (.unit (.refused e)) := unit fun _ no => by cases no

theorem instr {i : Instr} {s u : State} (h : u.inq = s.inq) : KeepsInput s (.instr i u) :=
  ⟨rfl, fun _ run => (exec_inq run).trans h⟩

theorem decodeMove {ctx : Ctx} {bs : List Byte} {s t : State} (h : t.inq = s.inq) :
    KeepsInput s (decodeMove ctx bs (.next t) s) := by
  unfold Machine.decodeMove
  split
  · exact instr rfl
  · exact next h

end Move.KeepsInput

open Move (KeepsInput)

theorem rldPad_inq (s : State) : (rldPad s).inq = s.inq := by
  unfold rldPad
  split <;> rfl

theorem lzcStoreAll_inq {bs : List Byte} {s t : State} (h : lzcStoreAll bs s = .next t) : t.inq = s.inq := by
  obtain ⟨rfl, -⟩ := lzcStoreAll_next h
  rfl

theorem fraPayload_inq {s t : State} (h : fraPayload s = .next t) : t.inq = s.inq := by
  unfold fraPayload at h
  split at h
  · split at h <;> cases h
    rfl
  · cases h
    rfl

theorem fprPayloadByte_inq {b : Byte} {s t : State} (h : fprPayloadByte b s = .next t) : t.inq = s.inq := by
  unfold fprPayloadByte at h
  split at h <;> cases h
  rfl

theorem lzdByte_keepsInput (b : Byte) (s : State) : KeepsInput s (lzdByte b s) := by
  rw [lzdByte_eq]
  split
  · split
    · exact .instr rfl
    split
    · exact .instr rfl
    · exact .next rfl
  · exact .refused _

theorem lzdFromPbuf_keepsInput (s : State) : KeepsInput s (lzdFromPbuf s) := by
  unfold lzdFromPbuf
  split
  · split
    · exact .fault _
    · exact lzdByte_keepsInput _ s
  · exact .next rfl

/-! ### Does a move take the beat? -/

/-- The state with other beats on IN and other plans of the host. -/
abbrev State.facing (s : State) (q : List Beat) (plan : List HostMove) : State := { s with inq := q, script := plan }

/-- The moves `m` from the states `s.facing` take the beat on IN whatever it is, and the units then act without
another. -/
structure TakesBeat (s : State) (m : List Beat → List HostMove → Move) (onData : Byte → State → Move)
    (onEnd : State → Move) : Prop where
  eq_takeIn : ∀ q plan, m q plan = takeIn (s.facing q plan) onData onEnd
  data : ∀ b u, KeepsInput u (onData b u)
  fin : ∀ u, KeepsInput u (onEnd u)

/-- What the moves `m` from the states `s.facing` do with the beat on IN: all take it, or all are made without it, or
all wait. -/
inductive InputUse (s : State) (m : List Beat → List HostMove → Move) : Prop where
  | takes {onData : Byte → State → Move} {onEnd : State → Move} (h : TakesBeat s m onData onEnd)
  | keeps (own : ∀ q plan, KeepsInput (s.facing q plan) (m q plan))
  | waits (idle : ∀ q plan, m q plan = .wait)

/-- A choice that does not look at IN or at the plans. -/
theorem InputUse.ite {s : State} {c : Prop} {inst : List Beat → List HostMove → Decidable c}
    {m m' : List Beat → List HostMove → Move} (pos : c → InputUse s m) (neg : ¬c → InputUse s m') :
    InputUse s fun q plan => @ite Move c (inst q plan) (m q plan) (m' q plan) := by
  by_cases h : c
  · simpa only [if_pos h] using pos h
  · simpa only [if_neg h] using neg h

/-! ### The encoders -/

theorem rleEncMove_inputUse (s : State) : InputUse s fun q plan => rleEncMove (s.facing q plan) :=
  .takes ⟨fun _ _ => rfl, fun _ _ => .next rfl, fun _ => .next rfl⟩

theorem lzcMove_inputUse {s : State} {next : List Beat → List HostMove → Move} (uses : s.cfg.op.usesLzc = true)
    (h : InputUse s next) : InputUse s fun q plan => lzcMove (s.facing q plan) (next q plan) := by
  have kept {q plan t} (step : LzcStep (s.facing q plan) t) : t.inq = q :=
    (step.works (s := s.facing q plan) uses).inq_eq
  unfold lzcMove
  dsimp only
  refine .ite (fun full => .keeps fun _ _ => .unit fun _ e => kept (lzcGroupClose_next full e)) fun room => ?_
  refine .ite (fun ready => .keeps fun _ _ => .unit fun _ e => kept (lzcToken_next (by simpa using room) ready e))
    fun _ => ?_
  exact .ite (fun complete => .keeps fun _ _ => .next (kept (.finish complete))) fun _ => h

theorem lzCompMove_inputUse {s : State} (op : s.cfg.op = .lzComp) :
    InputUse s fun q plan => lzCompMove (s.facing q plan) :=
  lzcMove_inputUse (by simp [op, Op.usesLzc])
    (.takes
      ⟨fun _ _ => rfl,
        fun b u => .unit fun t store => lzcStoreAll_inq (bs := [b]) (andThen_eq_next.2 ⟨t, store, rfl⟩),
        fun _ => .next rfl⟩)

/-- BIN, RLU and LZC store what the pixel gives, and take no further beat. -/
theorem pixelMove_inputUse (s : State) : InputUse s fun q plan => pixelMove (s.facing q plan) := by
  refine .takes
    ⟨fun _ _ => rfl, fun _ _ => .unit fun _ store => (lzcStoreAll_inq store :), fun _ => .unit fun _ h => ?_⟩
  obtain ⟨_, store, done⟩ := andThen_eq_next.1 h
  cases done
  exact (lzcStoreAll_inq store :)

theorem imgEncMove_inputUse {s : State} (op : s.cfg.op = .imgEnc) :
    InputUse s fun q plan => imgEncMove (s.facing q plan) := by
  have body := lzcMove_inputUse (by simp [op, Op.usesLzc]) (pixelMove_inputUse s)
  unfold imgEncMove
  dsimp only
  cases s.fra.phase with
  | hdr => exact .keeps fun _ _ => .next rfl
  | body => exact body
  | idle | len | payload | fin => exact .waits fun _ _ => rfl

theorem vidEncMove_inputUse {s : State} (op : s.cfg.op = .vidEnc) :
    InputUse s fun q plan => vidEncMove (s.facing q plan) := by
  have body := lzcMove_inputUse (by simp [op, Op.usesLzc]) (pixelMove_inputUse s)
  unfold vidEncMove
  dsimp only
  cases s.fra.phase with
  | hdr | len | fin => exact .keeps fun _ _ => .next rfl
  | body => exact body
  | payload => exact .keeps fun _ _ => .unit fun _ => fraPayload_inq
  | idle => exact .waits fun _ _ => rfl

/-! ### The decoders -/

theorem rldPad_inputUse (s : State) : InputUse s fun q plan => .unit (.next (rldPad (s.facing q plan))) :=
  .keeps fun _ _ => .next (rldPad_inq _)

theorem rleDecMove_inputUse (s : State) : InputUse s fun q plan => rleDecMove (s.facing q plan) := by
  unfold rleDecMove
  dsimp only
  exact .ite (fun _ => rldPad_inputUse s) fun _ =>
    .takes ⟨fun _ _ => rfl, fun _ _ => .decodeMove rfl, fun _ => .next rfl⟩

theorem lzdMove_inputUse {s : State} {next : List Beat → List HostMove → Move} (h : InputUse s next) :
    InputUse s fun q plan => lzdMove (s.facing q plan) (next q plan) := by
  unfold lzdMove
  dsimp only
  exact .ite (fun _ => .keeps fun _ _ => .decodeMove rfl) fun _ => h

theorem lzDecompMove_inputUse (s : State) : InputUse s fun q plan => lzDecompMove (s.facing q plan) :=
  lzdMove_inputUse (.takes ⟨fun _ _ => rfl, lzdByte_keepsInput, fun _ => .next rfl⟩)

theorem fprCollect_inputUse (n : Nat) (ctx : Ctx) (e : Exc) (s : State) :
    InputUse s fun q plan => fprCollect n ctx e (s.facing q plan) := by
  unfold fprCollect
  dsimp only
  exact .ite (fun _ => .keeps fun _ _ => .decodeMove rfl) fun _ =>
    .takes ⟨fun _ _ => rfl, fun _ _ => .next rfl, fun _ => .next rfl⟩

theorem imgDecMove_inputUse (s : State) : InputUse s fun q plan => imgDecMove (s.facing q plan) := by
  have header := fprCollect_inputUse Config.imgHdrBytes .imgHeader .malformedHeader s
  have block := lzdMove_inputUse (s := s) (.takes (onEnd := fun s => .unit (.next (rldInputEnd s)))
    ⟨fun _ _ => rfl, lzdByte_keepsInput, fun _ => .next rfl⟩)
  unfold imgDecMove
  dsimp only
  refine .ite (fun _ => rldPad_inputUse s) fun _ => ?_
  cases s.fpr.phase with
  | hdr => exact header
  | decode => exact block
  | idle | len | payload | fin => exact .waits fun _ _ => rfl

theorem vidHdrMove_inputUse (s : State) : InputUse s fun q plan => vidHdrMove (s.facing q plan) := by
  have header := fprCollect_inputUse Config.vidHdrBytes .vidHeader .malformedHeader s
  unfold vidHdrMove
  dsimp only
  cases s.fpr.phase with
  | hdr => exact header
  | idle | len | payload | decode | fin => exact .waits fun _ _ => rfl

theorem vidFrameMove_inputUse (s : State) : InputUse s fun q plan => vidFrameMove (s.facing q plan) := by
  have length := fprCollect_inputUse Config.lenFieldBytes .frameLen .truncatedPayload s
  have block := lzdMove_inputUse (s := s) (.keeps fun q plan => lzdFromPbuf_keepsInput (s.facing q plan))
  unfold vidFrameMove
  dsimp only
  refine .ite (fun _ => rldPad_inputUse s) fun _ => ?_
  cases s.fpr.phase with
  | len => exact length
  | payload =>
    exact .ite (fun _ => .keeps fun _ _ => .next rfl) fun _ =>
      .takes ⟨fun _ _ => rfl, fun _ _ => .unit fun _ => fprPayloadByte_inq, fun _ => .next rfl⟩
  | decode => exact block
  | idle | hdr | fin => exact .waits fun _ _ => rfl

theorem opMove_inputUse (s : State) : InputUse s fun q plan => opMove (s.facing q plan) := by
  unfold opMove
  dsimp only
  cases op : s.cfg.op with
  | none => exact .waits fun _ _ => rfl
  | rleEnc => exact rleEncMove_inputUse s
  | lzComp => exact lzCompMove_inputUse op
  | imgEnc => exact imgEncMove_inputUse op
  | vidEnc => exact vidEncMove_inputUse op
  | rleDec => exact rleDecMove_inputUse s
  | lzDecomp => exact lzDecompMove_inputUse s
  | imgDec => exact imgDecMove_inputUse s
  | vidHdr => exact vidHdrMove_inputUse s
  | vidFrame => exact vidFrameMove_inputUse s

/-! ### The pin -/

/-- The running operation's next move takes the beat on IN. -/
abbrev Taking (s : State) : (Byte → State → Move) → (State → Move) → Prop :=
  TakesBeat s fun q plan => opMove (s.facing q plan)

theorem Taking.opMove_eq {s : State} {onData : Byte → State → Move} {onEnd : State → Move} (h : Taking s onData onEnd) :
    opMove s = takeIn s onData onEnd := h.eq_takeIn s.inq s.script

/-- `in_ready` is 1 just when BFC is busy, delivers nothing, and its next move takes a beat. -/
theorem inReady_iff (s : State) :
    inReady s = true ↔ s.status.busy = true ∧ s.outPend = [] ∧ ∃ onData onEnd, Taking s onData onEnd := by
  simp only [inReady, Bool.and_eq_true, List.isEmpty_iff, and_assoc, Bool.not_eq_true']
  refine and_congr_right fun _ => and_congr_right fun _ => ?_
  constructor
  · rintro ⟨starves, takes⟩
    cases opMove_inputUse s with
    | takes h => exact ⟨_, _, h⟩
    | keeps own => exact absurd (starves.symm.trans (own [] s.script).made) (by decide)
    | waits idle =>
      have waiting : (opMove { s with inq := [.fin] }).waits = true := congrArg Move.waits (idle [.fin] s.script)
      exact absurd (takes.symm.trans waiting) (by decide)
  · rintro ⟨onData, onEnd, h⟩
    exact ⟨congrArg Move.waits (h.eq_takeIn [] s.script),
      (congrArg Move.waits (h.eq_takeIn [.fin] s.script)).trans (h.fin _).made⟩

/-- What BFC's next move takes does not depend on what the host plans. -/
theorem inReady_script {s : State} (ready : inReady s = true) (plan : List HostMove) :
    inReady { s with script := plan } = true := by
  obtain ⟨busy, hout, onData, onEnd, h⟩ := (inReady_iff s).1 ready
  exact (inReady_iff _).2 ⟨busy, hout, onData, onEnd, h.eq_takeIn, h.data, h.fin⟩

theorem Taking.inq_of_leadsTo {s t : State} {onData : Byte → State → Move} {onEnd : State → Move}
    (h : Taking s onData onEnd) (move : (opMove s).LeadsTo t) : ∃ b, s.inq = b :: t.inq := by
  rw [h.opMove_eq] at move
  rcases takeIn_leadsTo move with ⟨b, rest, hf, units⟩ | ⟨rest, hf, units⟩
  · cases hf with
    | data inq _ => exact ⟨.data b, inq.trans (congrArg (.data b :: ·) ((h.data _ _).inq_eq t units).symm)⟩
  · cases hf with
    | fin inq => exact ⟨.fin, inq.trans (congrArg (.fin :: ·) ((h.fin _).inq_eq t units).symm)⟩

theorem bfcMove_takes {s t : State} (move : bfcMove s = some (.next t)) (ready : inReady s = true) :
    ∃ b, s.inq = b :: t.inq := by
  obtain ⟨-, hout, onData, onEnd, h⟩ := (inReady_iff s).1 ready
  rcases bfcMove_next_cases move with ⟨b, rest, waiting, -⟩ | ⟨-, hop⟩
  · simp [hout] at waiting
  · exact h.inq_of_leadsTo hop

theorem bfcMove_keeps {s t : State} (move : bfcMove s = some (.next t)) (notReady : inReady s = false) :
    t.inq = s.inq := by
  rcases bfcMove_next_cases move with ⟨b, rest, -, rfl⟩ | ⟨⟨busy, hout, -⟩, hop⟩
  · exact acceptBeat_inq b rest s
  cases opMove_inputUse s with
  | takes h =>
    have ready := (inReady_iff s).2 ⟨busy, hout, _, _, h⟩
    exact absurd (notReady.symm.trans ready) (by decide)
  | keeps own => exact (own s.inq s.script).inq_eq t hop
  | waits idle =>
    have waiting : opMove s = .wait := idle s.inq s.script
    simp [waiting] at hop

/-- A data beat that would make its message too long is refused (00_scope.md R16). -/
theorem bfcMove_refuses {s : State} {b : Byte} {rest : List Beat} (ready : inReady s = true)
    (inq : s.inq = .data b :: rest) (long : 2 ^ 64 ≤ s.inTaken + 1) :
    bfcMove s = some (.refused .messageTooLong) := by
  obtain ⟨busy, hout, onData, onEnd, h⟩ := (inReady_iff s).1 ready
  refine bfcMove_unit hout busy (h.opMove_eq.trans ?_)
  simp only [takeIn, inq, if_neg (Nat.not_lt_of_le long)]

/-- With nothing on IN an operation that asks for a beat waits (20_memory.md R74). -/
theorem bfcMove_starved {s : State} (ready : inReady s = true) (inq : s.inq = []) : bfcMove s = none := by
  obtain ⟨busy, hout, onData, onEnd, h⟩ := (inReady_iff s).1 ready
  refine bfcMove_wait hout busy (h.opMove_eq.trans ?_)
  simp only [takeIn, inq]

/-- Where BFC has no move, whatever is planned, the host's next act comes at once (log 2). -/
theorem step_of_stuck_planned {s : State} {n : Nat} {a : HostAct} {rest : List HostMove}
    (stuck : ∀ plan, bfcMove { s with script := plan } = none) (planned : s.script = ⟨n, a⟩ :: rest) :
    step s = hostAct a { s with script := rest } := by
  cases n with
  | zero => simp only [step, planned]
  | succ n => simp only [step, planned, stuck]

/-- Settles O24: a move that asks for a beat takes the one on the port, refuses it, or waits for it; any other move
leaves IN alone. -/
theorem inReadyIsFaithful : Obligations.InReadyIsFaithful := by
  refine ⟨fun s t move => ⟨bfcMove_takes move, bfcMove_keeps move⟩, fun s idle => by simp [inReady, idle],
    fun s b rest => bfcMove_refuses, fun s ready inq => ?_⟩
  have starved := bfcMove_starved ready inq
  refine ⟨starved, fun plan => step_of_stuck plan starved, fun n b rest planned => ?_⟩
  have stuck (plan : List HostMove) : bfcMove { s with script := plan } = none :=
    bfcMove_starved (inReady_script ready plan) inq
  rw [step_of_stuck_planned stuck planned, hostAct, inq, List.nil_append]

end Sys2Proof.Machine
end

section
/-! PROOF. The codec of 30_encoding.md, both ways: a field of a joined word and the word joined from its fields, then
the decoder on what the encoder writes, and the encoder on what the decoder reads. -/

namespace Sys2Proof

/-! ### Fields of words -/

theorem ofBool_getLsbD {n : Nat} (v : BitVec n) (k : Nat) : BitVec.ofBool (v.getLsbD k) = v.extractLsb' k 1 := by
  refine BitVec.eq_of_getLsbD_eq fun i hi => ?_
  obtain rfl : i = 0 := by omega
  simp

/-- A bit that is set is the one-bit word 1. -/
theorem extractLsb'_eq_one {n : Nat} {v : BitVec n} {k : Nat} (isSet : v.getLsbD k = true) :
    v.extractLsb' k 1 = 1#1 := by
  rw [← ofBool_getLsbD, isSet]
  rfl

theorem be16_unbe16 (a b : Byte) : be16 (unbe16 a b) = [a, b] := by
  simp only [be16, unbe16, BitVec.extractLsb'_append_eq_ite]
  simp

theorem be32_unbe32 (a b c d : Byte) : be32 (unbe32 a b c d) = [a, b, c, d] := by
  simp only [be32, unbe32, BitVec.extractLsb'_append_eq_ite]
  simp

theorem unbe16_fields (v : BitVec 16) : unbe16 (v.extractLsb' 8 8) (v.extractLsb' 0 8) = v :=
  BitVec.extractLsb'_append_extractLsb'

theorem unbe32_fields (v : BitVec 32) :
    unbe32 (v.extractLsb' 24 8) (v.extractLsb' 16 8) (v.extractLsb' 8 8) (v.extractLsb' 0 8) = v := by
  simp only [unbe32, BitVec.extractLsb'_append_extractLsb'_eq_extractLsb']
  simp

theorem runByte_count (count value : BitVec 4) : (runByte count value).extractLsb' 4 4 = count :=
  BitVec.extractLsb'_append_eq_left

theorem runByte_value (count value : BitVec 4) : (runByte count value).extractLsb' 0 4 = value :=
  BitVec.extractLsb'_append_eq_right

theorem runByte_fields (b : Byte) : runByte (b.extractLsb' 4 4) (b.extractLsb' 0 4) = b :=
  BitVec.extractLsb'_append_extractLsb'

/-! ### Commands -/

theorem commandWord_start (op : BitVec 4) (f : CmdFields) : (commandWord op f).getLsbD 31 = true := by
  simp only [commandWord, BitVec.getLsbD_append]
  simp

theorem commandWord_op (op : BitVec 4) (f : CmdFields) : (commandWord op f).extractLsb' 0 4 = op := by
  simp only [commandWord, BitVec.extractLsb'_append_eq_ite]
  simp

theorem cmdFieldsOf_commandWord (op : BitVec 4) (f : CmdFields) : cmdFieldsOf (commandWord op f) = f := by
  simp only [cmdFieldsOf, commandWord, BitVec.getLsbD_append, BitVec.extractLsb'_append_eq_ite]
  simp

/-- A `CTRL` word with `START` = 1 is the one made of its code and its fields (10_state.md R22). -/
theorem commandWord_cmdFieldsOf {v : Word} (start : v.getLsbD 31 = true) :
    commandWord (v.extractLsb' 0 4) (cmdFieldsOf v) = v := by
  simp only [commandWord, cmdFieldsOf, ← extractLsb'_eq_one start, ofBool_getLsbD,
    BitVec.extractLsb'_append_extractLsb'_eq_extractLsb']
  simp

theorem encode_commandOf (op : BitVec 4) (f : CmdFields) : encode (commandOf op f) = be32 (commandWord op f) := by
  obtain ⟨n, hn⟩ := op
  interval_cases n <;> rfl

theorem commandOf_wf (op : BitVec 4) (f : CmdFields) : (commandOf op f).wf = true := by
  unfold commandOf
  split <;> rfl

theorem decodeCommand_commandWord (op : BitVec 4) (f : CmdFields) :
    decodeCommand (commandWord op f) = .ok (commandOf op f) := by
  rw [decodeCommand, if_pos (commandWord_start op f), commandWord_op, cmdFieldsOf_commandWord]

theorem decode_commandWord (op : BitVec 4) (f : CmdFields) (rest : List Byte) :
    decode .command (be32 (commandWord op f) ++ rest) = .ok (commandOf op f, rest) := by
  simp only [be32, List.cons_append, List.nil_append, decode, unbe32_fields, decodeCommand_commandWord, Except.map]

/-- What is read as a command is encoded by its own word (10_state.md R22, 30_encoding.md R104, R105). -/
theorem encode_of_decodeCommand {v : Word} {i : Instr} (h : decodeCommand v = .ok i) :
    encode i = be32 v ∧ i.wf = true := by
  unfold decodeCommand at h
  split at h
  next start =>
    cases h
    exact ⟨by rw [encode_commandOf, commandWord_cmdFieldsOf start], commandOf_wf _ _⟩
  next => cases h

/-! ### Back-references -/

theorem offByteOk_iff (b : Byte) : offByteOk b = true ↔ ¬b.getLsbD 6 = true := by
  rw [offByteOk, Bool.not_eq_true', Bool.not_eq_true]

theorem lenByteOk_iff (b : Byte) : lenByteOk b = true ↔ ¬b.getLsbD 4 = true := by
  rw [lenByteOk, Bool.not_eq_true', Bool.not_eq_true]

/-- The first byte of a two-byte field: ignored bits, the key bit set, and the high part of the value (30_encoding.md
R90, R92, R101). -/
theorem keyed_fields {m n : Nat} (pad : BitVec m) (high : BitVec n) :
    (pad ++ 1#1 ++ high).getLsbD n = true ∧ (pad ++ 1#1 ++ high).extractLsb' (n + 1) m = pad ∧
      (pad ++ 1#1 ++ high).extractLsb' 0 n = high := by
  refine ⟨by simp [BitVec.getLsbD_append], ?_, BitVec.extractLsb'_append_eq_right⟩
  rw [BitVec.extractLsb'_append_eq_of_le (Nat.le_add_right n 1), Nat.add_sub_cancel_left]
  exact BitVec.extractLsb'_append_eq_left

/-- A byte with the key bit set is the first byte of such a field. -/
theorem keyed_of_key {m n : Nat} {b : BitVec (m + 1 + n)} (key : b.getLsbD n = true) :
    b.extractLsb' (n + 1) m ++ 1#1 ++ b.extractLsb' 0 n = b := by
  rw [← extractLsb'_eq_one key, BitVec.extractLsb'_append_extractLsb'_eq_extractLsb' rfl]
  exact BitVec.extractLsb'_append_extractLsb'

theorem offBytes2_of_key {b0 : Byte} (key : b0.getLsbD 6 = true) (b1 : Byte) :
    offBytes2 (b0.extractLsb' 7 1) (b0.extractLsb' 0 6 ++ b1) = [b0, b1] := by
  have high : (b0.extractLsb' 0 6 ++ b1 : BitVec 14).extractLsb' 8 6 = b0.extractLsb' 0 6 :=
    BitVec.extractLsb'_append_eq_left
  have low : (b0.extractLsb' 0 6 ++ b1 : BitVec 14).extractLsb' 0 8 = b1 := BitVec.extractLsb'_append_eq_right
  have first : b0.extractLsb' 7 1 ++ 1#1 ++ b0.extractLsb' 0 6 = b0 := keyed_of_key key
  rw [offBytes2, high, low, first]

theorem lenBytes2_of_key {c0 : Byte} (key : c0.getLsbD 4 = true) (c1 : Byte) :
    lenBytes2 (c0.extractLsb' 5 3) (c0.extractLsb' 0 4 ++ c1) = [c0, c1] := by
  have high : (c0.extractLsb' 0 4 ++ c1 : BitVec 12).extractLsb' 8 4 = c0.extractLsb' 0 4 :=
    BitVec.extractLsb'_append_eq_left
  have low : (c0.extractLsb' 0 4 ++ c1 : BitVec 12).extractLsb' 0 8 = c1 := BitVec.extractLsb'_append_eq_right
  have first : c0.extractLsb' 5 3 ++ 1#1 ++ c0.extractLsb' 0 4 = c0 := keyed_of_key key
  rw [lenBytes2, high, low, first]

theorem decodeReference_offByte {off : Byte} (ok : offByteOk off = true) (bs : List Byte) :
    decodeReference (off :: bs) = decodeLenAfter1 off bs :=
  if_neg ((offByteOk_iff off).1 ok)

theorem decodeReference_offBytes2 (pad : BitVec 1) (off : BitVec 14) (bs : List Byte) :
    decodeReference (offBytes2 pad off ++ bs) = decodeLenAfter2 pad off bs := by
  obtain ⟨key, hpad, high⟩ := keyed_fields pad (off.extractLsb' 8 6)
  have joined : off.extractLsb' 8 6 ++ off.extractLsb' 0 8 = off := BitVec.extractLsb'_append_extractLsb'
  exact (if_pos key).trans (by rw [hpad, high, joined]; rfl)

theorem decodeLenAfter1_lenByte {len : Byte} (ok : lenByteOk len = true) (off : Byte) (rest : List Byte) :
    decodeLenAfter1 off (len :: rest) = .ok (.ref11 off len, rest) :=
  if_neg ((lenByteOk_iff len).1 ok)

theorem decodeLenAfter1_lenBytes2 (off : Byte) (pad : BitVec 3) (len : BitVec 12) (rest : List Byte) :
    decodeLenAfter1 off (lenBytes2 pad len ++ rest) = .ok (.ref12 off pad len, rest) := by
  obtain ⟨key, hpad, high⟩ := keyed_fields pad (len.extractLsb' 8 4)
  have joined : len.extractLsb' 8 4 ++ len.extractLsb' 0 8 = len := BitVec.extractLsb'_append_extractLsb'
  exact (if_pos key).trans (by rw [hpad, high, joined]; rfl)

theorem decodeLenAfter2_lenByte {len : Byte} (ok : lenByteOk len = true) (pad : BitVec 1) (off : BitVec 14)
    (rest : List Byte) : decodeLenAfter2 pad off (len :: rest) = .ok (.ref21 pad off len, rest) :=
  if_neg ((lenByteOk_iff len).1 ok)

theorem decodeLenAfter2_lenBytes2 (offPad : BitVec 1) (off : BitVec 14) (pad : BitVec 3) (len : BitVec 12)
    (rest : List Byte) :
    decodeLenAfter2 offPad off (lenBytes2 pad len ++ rest) = .ok (.ref22 offPad off pad len, rest) := by
  obtain ⟨key, hpad, high⟩ := keyed_fields pad (len.extractLsb' 8 4)
  have joined : len.extractLsb' 8 4 ++ len.extractLsb' 0 8 = len := BitVec.extractLsb'_append_extractLsb'
  exact (if_pos key).trans (by rw [hpad, high, joined]; rfl)

/-- A back-reference with a one-byte offset that ParseLEN reads is encoded by the bytes read (R101). -/
theorem encode_of_decodeLenAfter1 {off : Byte} {bs rest : List Byte} {i : Instr} (ok : offByteOk off = true)
    (h : decodeLenAfter1 off bs = .ok (i, rest)) : encode i ++ rest = off :: bs ∧ i.wf = true := by
  unfold decodeLenAfter1 at h
  split at h
  next => cases h
  next c0 bs =>
    split at h
    next key =>
      split at h
      next => cases h
      next c1 bs =>
        cases h
        exact ⟨by simp [encode, lenBytes2_of_key key], ok⟩
    next key =>
      cases h
      exact ⟨rfl, by rw [Instr.wf, ok, (lenByteOk_iff c0).2 key, Bool.and_self]⟩

/-- The same with a two-byte offset. -/
theorem encode_of_decodeLenAfter2 {pad : BitVec 1} {off : BitVec 14} {bs rest : List Byte} {i : Instr}
    (h : decodeLenAfter2 pad off bs = .ok (i, rest)) : encode i ++ rest = offBytes2 pad off ++ bs ∧ i.wf = true := by
  unfold decodeLenAfter2 at h
  split at h
  next => cases h
  next c0 bs =>
    split at h
    next key =>
      split at h
      next => cases h
      next c1 bs =>
        cases h
        exact ⟨by simp [encode, lenBytes2_of_key key], rfl⟩
    next key =>
      cases h
      exact ⟨by simp [encode], (lenByteOk_iff c0).2 key⟩

theorem encode_of_decodeReference {bs rest : List Byte} {i : Instr} (h : decodeReference bs = .ok (i, rest)) :
    encode i ++ rest = bs ∧ i.wf = true := by
  unfold decodeReference at h
  split at h
  next => cases h
  next b0 bs =>
    split at h
    next key =>
      split at h
      next => cases h
      next b1 bs =>
        simpa only [offBytes2_of_key key, List.cons_append, List.nil_append] using encode_of_decodeLenAfter2 h
    next key => exact encode_of_decodeLenAfter1 ((offByteOk_iff b0).2 key) h

/-! ### The round trips -/

/-- Settles O1: the command word, the fields of a back-reference and the big-endian fields each by their own law; the
one-byte rows are read as they are written. -/
theorem decodeOfEncode : Obligations.DecodeOfEncode := by
  intro i rest wf
  cases i with
  | start | flag | lit => rfl
  | run count value => simp [encode, Instr.ctx, decode, runByte_count, runByte_value]
  | ref11 off len =>
    obtain ⟨hoff, hlen⟩ : offByteOk off = true ∧ lenByteOk len = true := by simpa [Instr.wf] using wf
    exact (decodeReference_offByte hoff _).trans (decodeLenAfter1_lenByte hlen off rest)
  | ref12 off pad len => exact (decodeReference_offByte wf _).trans (decodeLenAfter1_lenBytes2 off pad len rest)
  | ref21 pad off len => exact (decodeReference_offBytes2 pad off _).trans (decodeLenAfter2_lenByte wf pad off rest)
  | ref22 offPad off pad len =>
    exact (decodeReference_offBytes2 offPad off _).trans (decodeLenAfter2_lenBytes2 offPad off pad len rest)
  | imgHeader w h => simp only [encode, be32, List.cons_append, List.nil_append, Instr.ctx, decode, unbe32_fields]
  | vidHeader w h rate count =>
    simp only [encode, be16, be32, List.cons_append, List.nil_append, Instr.ctx, decode, unbe16_fields, unbe32_fields]
  | frameLen n => simp only [encode, be32, List.cons_append, List.nil_append, Instr.ctx, decode, unbe32_fields]
  | _ f => exact decode_commandWord _ f rest

/-- Settles O2: the same laws the other way; the place is the one that is read. -/
theorem encodeOfDecode : Obligations.EncodeOfDecode := by
  intro ctx bs i rest h
  have place : i.ctx = ctx := Machine.ctx_of_decode h
  suffices codec : encode i ++ rest = bs ∧ i.wf = true from ⟨codec.1, codec.2, place⟩
  unfold decode at h
  split at h
  case h_1 a b c d bs =>
    cases hcmd : decodeCommand (unbe32 a b c d) with
    | error e => simp [hcmd, Except.map] at h
    | ok j =>
      obtain ⟨rfl, rfl⟩ : j = i ∧ bs = rest := by simpa [hcmd, Except.map] using h
      obtain ⟨hword, hwf⟩ := encode_of_decodeCommand hcmd
      exact ⟨by rw [hword, be32_unbe32]; rfl, hwf⟩
  case h_6 => exact encode_of_decodeReference h
  case h_3 b bs =>
    cases h
    exact ⟨by rw [encode, runByte_fields]; rfl, rfl⟩
  case h_10 => cases h
  all_goals
    cases h
    simp [encode, Instr.wf, be16_unbe16, be32_unbe32]

end Sys2Proof
end

section
/-! PROOF. The offset and length of a back-reference (30_encoding.md R89 to R92, R101), and the field packer that writes
them (41_window_compressor.md R146, R147). -/

namespace Sys2Proof.Machine

/-! ### The values of the fields -/

theorem offOfByte_toNat (b : Byte) : (offOfByte b).toNat = b.toNat := BitVec.toNat_setWidth_of_le (by decide)

theorem lenOfByte_toNat (b : Byte) : (lenOfByte b).toNat = b.toNat := BitVec.toNat_setWidth_of_le (by decide)

theorem offField_toNat (b0 b1 : Byte) :
    (b0.extractLsb' 0 6 ++ b1 : BitVec 14).toNat = b0.toNat % 64 * 256 + b1.toNat := by
  rw [toNat_append_eq, BitVec.extractLsb'_toNat, Nat.shiftRight_zero]
  rfl

theorem lenField_toNat (c0 c1 : Byte) :
    (c0.extractLsb' 0 4 ++ c1 : BitVec 12).toNat = c0.toNat % 16 * 256 + c1.toNat := by
  rw [toNat_append_eq, BitVec.extractLsb'_toNat, Nat.shiftRight_zero]
  rfl

theorem byte_ofNat_toNat {x : Nat} (h : x < 256) : (BitVec.ofNat 8 x).toNat = x := by
  rw [BitVec.toNat_ofNat, Nat.mod_eq_of_lt h]

theorem offByteOk_ofNat {off : Nat} (h : off < Config.off1Limit) : offByteOk (BitVec.ofNat 8 off) = true := by
  rw [offByteOk_iff, BitVec.getLsbD_ofNat, Nat.testBit_lt_two_pow h]
  decide

theorem lenByteOk_ofNat {len : Nat} (h : len < Config.len1Limit) : lenByteOk (BitVec.ofNat 8 len) = true := by
  rw [lenByteOk_iff, BitVec.getLsbD_ofNat, Nat.testBit_lt_two_pow h]
  decide

theorem offKeyByte_eq (x : Byte) : 0x40#8 ||| (x &&& 0x3F#8) = 0#1 ++ 1#1 ++ x.extractLsb' 0 6 := by
  refine BitVec.eq_of_getLsbD_eq fun k hk => ?_
  simp only [BitVec.getLsbD_append, BitVec.getLsbD_or, BitVec.getLsbD_and, BitVec.getLsbD_extractLsb']
  interval_cases k <;> simp

theorem lenKeyByte_eq (x : Byte) : 0x10#8 ||| (x &&& 0x0F#8) = 0#3 ++ 1#1 ++ x.extractLsb' 0 4 := by
  refine BitVec.eq_of_getLsbD_eq fun k hk => ?_
  simp only [BitVec.getLsbD_append, BitVec.getLsbD_or, BitVec.getLsbD_and, BitVec.getLsbD_extractLsb']
  interval_cases k <;> simp

theorem packOff_one {off : Nat} (h : off < Config.off1Limit) : packOff off = [BitVec.ofNat 8 off] := if_pos h

/-- A packed two-byte offset is the field of R90 with the ignored bit 0. -/
theorem packOff_two {off : Nat} (h : Config.off1Limit ≤ off) : packOff off = offBytes2 0 (BitVec.ofNat 14 off) := by
  have high : (BitVec.ofNat 8 (off / 256)).extractLsb' 0 6 = (BitVec.ofNat 14 off).extractLsb' 8 6 := by
    refine BitVec.eq_of_toNat_eq ?_
    simp only [BitVec.extractLsb'_toNat, BitVec.toNat_ofNat, Nat.shiftRight_eq_div_pow]
    omega
  have low : BitVec.ofNat 8 (off % 256) = (BitVec.ofNat 14 off).extractLsb' 0 8 := by
    refine BitVec.eq_of_toNat_eq ?_
    simp only [BitVec.extractLsb'_toNat, BitVec.toNat_ofNat, Nat.shiftRight_eq_div_pow]
    omega
  rw [packOff, if_neg (Nat.not_lt_of_le h), offKeyByte_eq, high, low]
  rfl

theorem packLen_one {len : Nat} (h : len < Config.len1Limit) : packLen len = [BitVec.ofNat 8 len] := if_pos h

/-- A packed two-byte length is the field of R92 with the ignored bits 0. -/
theorem packLen_two {len : Nat} (h : Config.len1Limit ≤ len) : packLen len = lenBytes2 0 (BitVec.ofNat 12 len) := by
  have high : (BitVec.ofNat 8 (len / 256)).extractLsb' 0 4 = (BitVec.ofNat 12 len).extractLsb' 8 4 := by
    refine BitVec.eq_of_toNat_eq ?_
    simp only [BitVec.extractLsb'_toNat, BitVec.toNat_ofNat, Nat.shiftRight_eq_div_pow]
    omega
  have low : BitVec.ofNat 8 (len % 256) = (BitVec.ofNat 12 len).extractLsb' 0 8 := by
    refine BitVec.eq_of_toNat_eq ?_
    simp only [BitVec.extractLsb'_toNat, BitVec.toNat_ofNat, Nat.shiftRight_eq_div_pow]
    omega
  rw [packLen, if_neg (Nat.not_lt_of_le h), lenKeyByte_eq, high, low]
  rfl

/-- What the field packer writes for an offset and a length is the encoding of a back-reference with that offset and
length (41_window_compressor.md R146, R147; 30_encoding.md R88 to R92). -/
theorem exists_reference_of_pack {off len : Nat} (hoff : off < 2 ^ 14) (hlen : len < 2 ^ 12) :
    ∃ i : Instr, i.wf = true ∧ i.ctx = .reference ∧ encode i = packOff off ++ packLen len ∧
      (refOffset i).toNat = off ∧ (refLength i).toNat = len := by
  rcases Nat.lt_or_ge off Config.off1Limit with ho | ho <;> rcases Nat.lt_or_ge len Config.len1Limit with hl | hl
  · refine ⟨.ref11 (BitVec.ofNat 8 off) (BitVec.ofNat 8 len), ?_, rfl, ?_, ?_, ?_⟩
    · rw [Instr.wf, offByteOk_ofNat ho, lenByteOk_ofNat hl, Bool.and_self]
    · rw [packOff_one ho, packLen_one hl]; rfl
    · exact (offOfByte_toNat _).trans (byte_ofNat_toNat (ho.trans (by decide)))
    · exact (lenOfByte_toNat _).trans (byte_ofNat_toNat (hl.trans (by decide)))
  · refine ⟨.ref12 (BitVec.ofNat 8 off) 0 (BitVec.ofNat 12 len), offByteOk_ofNat ho, rfl, ?_, ?_,
      Nat.mod_eq_of_lt hlen⟩
    · rw [packOff_one ho, packLen_two hl]; rfl
    · exact (offOfByte_toNat _).trans (byte_ofNat_toNat (ho.trans (by decide)))
  · refine ⟨.ref21 0 (BitVec.ofNat 14 off) (BitVec.ofNat 8 len), lenByteOk_ofNat hl, rfl, ?_,
      Nat.mod_eq_of_lt hoff, ?_⟩
    · rw [packOff_two ho, packLen_one hl]; rfl
    · exact (lenOfByte_toNat _).trans (byte_ofNat_toNat (hl.trans (by decide)))
  · refine ⟨.ref22 0 (BitVec.ofNat 14 off) 0 (BitVec.ofNat 12 len), rfl, rfl, ?_, Nat.mod_eq_of_lt hoff,
      Nat.mod_eq_of_lt hlen⟩
    rw [packOff_two ho, packLen_two hl]; rfl

/-- The decoder reads a packed back-reference whole, with the values that were packed. -/
theorem decode_pack {off len : Nat} (hoff : off < 2 ^ 14) (hlen : len < 2 ^ 12) (rest : List Byte) :
    ∃ i, decode .reference (packOff off ++ packLen len ++ rest) = .ok (i, rest) ∧
      encode i = packOff off ++ packLen len ∧ (refOffset i).toNat = off ∧ (refLength i).toNat = len := by
  obtain ⟨i, wf, place, hencode, hoffset, hlength⟩ := exists_reference_of_pack hoff hlen
  exact ⟨i, by rw [← hencode, ← place]; exact decodeOfEncode i rest wf, hencode, hoffset, hlength⟩

/-- Settles O4: the key bits choose the shape, whose fields have the values said; and a packed pair is the encoding of a
back-reference, which the decoder gives back. -/
theorem referenceFieldAssembly : Obligations.ReferenceFieldAssembly := by
  refine ⟨fun b0 b1 c0 c1 rest => ⟨fun hb hc => ?_, fun hb hc => ?_, fun hb hc => ?_, fun hb hc => ?_⟩,
    fun off len rest hoff hlen => ?_⟩
  · exact ⟨.ref11 b0 c0, (if_neg (ne_true_of_eq_false hb)).trans (if_neg (ne_true_of_eq_false hc)),
      offOfByte_toNat b0, lenOfByte_toNat c0⟩
  · exact ⟨.ref12 b0 _ _, (if_neg (ne_true_of_eq_false hb)).trans (if_pos hc),
      offOfByte_toNat b0, lenField_toNat c0 c1⟩
  · exact ⟨.ref21 _ _ c0, (if_pos hb).trans (if_neg (ne_true_of_eq_false hc)),
      offField_toNat b0 b1, lenOfByte_toNat c0⟩
  · exact ⟨.ref22 _ _ _ _, (if_pos hb).trans (if_pos hc), offField_toNat b0 b1, lenField_toNat c0 c1⟩
  · obtain ⟨i, hdecode, -, hoffset, hlength⟩ := decode_pack hoff hlen rest
    exact ⟨i, hdecode, hoffset, hlength⟩

end Sys2Proof.Machine
end

section
/-! PROOF. The run-length encoder's streams (30_encoding.md R83, 40_run_length.md R125): the facts about `rleRuns` are
by induction on the pixels, for every run that may be being counted. -/

namespace Sys2Proof.Machine

/-! ### RUN bytes -/

/-- The count of a RUN byte (30_encoding.md R82). -/
def runCount (r : Byte) : Nat := (r.extractLsb' 4 4).toNat

/-- Two records side by side have equal values only where the first is full (40_run_length.md R125). -/
def FullOrChanges (x y : Byte) : Prop := x.extractLsb' 0 4 = y.extractLsb' 0 4 → x.extractLsb' 4 4 = 15

theorem runCount_le (r : Byte) : runCount r ≤ Config.runMax := Nat.le_of_lt_succ (r.extractLsb' 4 4).isLt

theorem runCount_runByte {n : Nat} (fits : n ≤ Config.runMax) (v : BitVec 4) :
    runCount (runByte (BitVec.ofNat 4 n) v) = n := by
  rw [runCount, runByte_count, BitVec.toNat_ofNat, Nat.mod_eq_of_lt (Nat.lt_succ_of_le fits)]

theorem runByteOk_iff (r : Byte) : runByteOk r = true ↔ 1 ≤ runCount r ∧ (r.extractLsb' 0 4).toNat ≤ 1 := by
  simp [runByteOk, runCount, Nat.one_le_iff_ne_zero, BitVec.toNat_eq]

theorem pixel_le_one {n : Nat} (b : BitVec 1) : (b.setWidth n).toNat ≤ 1 := by
  rw [BitVec.toNat_setWidth]
  exact (Nat.mod_le _ _).trans (Nat.le_of_lt_succ b.isLt)

theorem pixel_setWidth_inj {a b : BitVec 1} (h : a.setWidth 4 = b.setWidth 4) : a = b := by
  simpa using congrArg (BitVec.setWidth 1) h

theorem runByteOk_runByte {n : Nat} (pos : 1 ≤ n) (fits : n ≤ Config.runMax) (b : BitVec 1) :
    runByteOk (runByte (BitVec.ofNat 4 n) (b.setWidth 4)) = true := by
  rw [runByteOk_iff, runCount_runByte fits, runByte_value]
  exact ⟨pos, pixel_le_one b⟩

/-! ### The records, with a run being counted -/

/-- The first record has the value of the run being counted. -/
theorem rleRuns_head (cur : BitVec 1) (cnt : Nat) (bits : List (BitVec 1)) :
    ∃ r rs, rleRuns cur cnt bits = r :: rs ∧ r.extractLsb' 0 4 = cur.setWidth 4 := by
  induction bits generalizing cnt with
  | nil => exact ⟨_, _, rfl, runByte_value _ _⟩
  | cons b bits ih =>
    simp only [rleRuns]
    split
    · exact ⟨_, _, rfl, runByte_value _ _⟩
    · exact ih (cnt + 1)

theorem rleRuns_ok {cur : BitVec 1} {cnt : Nat} (bits : List (BitVec 1)) (pos : 1 ≤ cnt)
    (fits : cnt ≤ Config.runMax) : ∀ r ∈ rleRuns cur cnt bits, runByteOk r = true := by
  induction bits generalizing cur cnt with
  | nil => exact List.forall_mem_singleton.2 (runByteOk_runByte pos fits cur)
  | cons b bits ih =>
    simp only [rleRuns]
    split
    next => exact List.forall_mem_cons.2 ⟨runByteOk_runByte pos fits cur, ih le_rfl (by decide)⟩
    next goesOn => exact ih (by omega) (by omega)

theorem rleRuns_isChain {cur : BitVec 1} {cnt : Nat} (bits : List (BitVec 1)) (fits : cnt ≤ Config.runMax) :
    (rleRuns cur cnt bits).IsChain FullOrChanges := by
  induction bits generalizing cur cnt with
  | nil => exact .singleton _
  | cons b bits ih =>
    simp only [rleRuns]
    split
    next ends =>
      obtain ⟨r, rs, hruns, hvalue⟩ := rleRuns_head b 1 bits
      have hrest := ih (cur := b) (cnt := 1) (by decide)
      rw [hruns] at hrest ⊢
      refine List.isChain_cons_cons.2 ⟨fun same => ?_, hrest⟩
      rw [runByte_value, hvalue] at same
      have full : cnt = Config.runMax := ends.resolve_left (not_not_intro (pixel_setWidth_inj same).symm)
      rw [runByte_count, full]
      rfl
    next goesOn => exact ih (by omega)

/-- The counts sum to the pixels of the run being counted and those after it. -/
theorem rleRuns_sum {cur : BitVec 1} {cnt : Nat} (bits : List (BitVec 1)) (fits : cnt ≤ Config.runMax) :
    ((rleRuns cur cnt bits).map runCount).sum = cnt + bits.length := by
  induction bits generalizing cur cnt with
  | nil => simp [rleRuns, runCount_runByte fits]
  | cons b bits ih =>
    simp only [rleRuns]
    split
    next =>
      rw [List.map_cons, List.sum_cons, runCount_runByte fits, ih (by decide), List.length_cons, Nat.add_comm 1]
    next goesOn => rw [ih (by omega), List.length_cons, Nat.add_right_comm, Nat.add_assoc]

/-- Records with a count of 1 to 15 each: their number lies between a fifteenth of the sum of the counts and the sum. -/
theorem length_le_sum_runCount {runs : List Byte} (ok : ∀ r ∈ runs, runByteOk r = true) :
    runs.length ≤ (runs.map runCount).sum ∧ (runs.map runCount).sum ≤ 15 * runs.length := by
  have low : (runs.map runCount).length • 1 ≤ (runs.map runCount).sum :=
    List.card_nsmul_le_sum _ _ (List.forall_mem_map.2 fun r hr => ((runByteOk_iff r).1 (ok r hr)).1)
  have high : (runs.map runCount).sum ≤ (runs.map runCount).length • 15 :=
    List.sum_le_card_nsmul _ _ (List.forall_mem_map.2 fun r _ => runCount_le r)
  rw [List.length_map, smul_eq_mul] at low high
  exact ⟨by omega, by omega⟩

/-! ### The whole stream -/

/-- The records of a stream are well-formed, change value or are full, and count the pixels. -/
theorem rleEnc_tail (bits : List (BitVec 1)) :
    (∀ r ∈ (rleEnc bits).tail, runByteOk r = true) ∧ (rleEnc bits).tail.IsChain FullOrChanges ∧
      ((rleEnc bits).tail.map runCount).sum = bits.length := by
  cases bits with
  | nil => simp [rleEnc]
  | cons b bits =>
    exact ⟨rleRuns_ok bits le_rfl (by decide), rleRuns_isChain bits (by decide),
      (rleRuns_sum bits (by decide)).trans (Nat.add_comm 1 _)⟩

/-- START is a pixel, and the first record has its value (30_encoding.md R83). -/
theorem wfRs_rleEnc (bits : List (BitVec 1)) : wfRs (rleEnc bits) = true := by
  cases bits with
  | nil => rfl
  | cons b bits =>
    obtain ⟨r, rs, hruns, hvalue⟩ := rleRuns_head b 1 bits
    have ok : (r :: rs).all runByteOk = true := List.all_eq_true.2 (hruns ▸ rleRuns_ok bits le_rfl (by decide))
    have small : decide ((b.setWidth 8).toNat ≤ 1) = true := decide_eq_true (pixel_le_one b)
    rw [rleEnc, hruns, wfRs, ok, small]
    simp [hvalue]

theorem rleEnc_length (bits : List (BitVec 1)) : (rleEnc bits).length = (rleEnc bits).tail.length + 1 := by
  cases bits <;> rfl

/-- Settles O40: the records have counts of 1 to 15 that sum to the pixels, so their number lies between the bounds. -/
theorem runLengthEncodeWellFormed : Obligations.RunLengthEncodeWellFormed := by
  intro bits
  obtain ⟨ok, chain, sum⟩ := rleEnc_tail bits
  obtain ⟨low, high⟩ := length_le_sum_runCount ok
  rw [sum] at low high
  refine ⟨wfRs_rleEnc bits, fun k x y hx hy same => ?_, sum, ?_⟩
  · obtain ⟨hk, rfl⟩ := List.getElem?_eq_some_iff.1 hx
    obtain ⟨hk', rfl⟩ := List.getElem?_eq_some_iff.1 hy
    exact List.isChain_iff_getElem.1 chain k hk' same
  · rw [rleEnc_length]
    exact ⟨by omega, by omega⟩

end Sys2Proof.Machine
end

section
/-! PROOF. Every block of the compressor is well-formed (30_encoding.md R93 to R95): `wfCbFrom` follows `lzGroup` token
by token, and `lzGroups` group by group. -/

namespace Sys2Proof.Machine

/-! ### Tokens -/

/-- A match long enough to be emitted has an offset of the window (41_window_compressor.md R141, R153). -/
theorem find_offset_pos {d : List Byte} {i : Nat} (long : Config.minMatch ≤ (find d i).2) : 1 ≤ (find d i).1 := by
  rcases find_cases d i with none | ⟨o, pos, -, found⟩
  · rw [none] at long
    exact absurd long (by decide)
  · rwa [found]

/-- The flag byte of a token has one bit, the token's own, and only for a back-reference (R148). -/
theorem tokenFlag_getLsbD {t k : Nat} (m : Nat × Nat) (hk : k < Config.group) :
    (tokenFlag t m).getLsbD k = (decide (t = k) && decide (Config.minMatch ≤ m.2)) := by
  unfold tokenFlag
  split
  next long =>
    have hk8 : k < 8 := hk
    rw [BitVec.getLsbD_ofNat, Nat.testBit_two_pow, decide_eq_true hk8, decide_eq_true long, Bool.true_and,
      Bool.and_true]
  next short => simp [short]

theorem tokenBytes_ne_nil {d : List Byte} {i : Nat} (hi : i < d.length) (m : Nat × Nat) : tokenBytes d i m ≠ [] :=
  List.ne_nil_of_length_pos (tokenBytes_length d i hi m).1

theorem tokenBytes_long {d : List Byte} {i : Nat} {m : Nat × Nat} (long : Config.minMatch ≤ m.2) :
    tokenBytes d i m = packOff m.1 ++ packLen m.2 := if_pos long

theorem tokenBytes_short {d : List Byte} {i : Nat} {m : Nat × Nat} (hi : i < d.length)
    (short : ¬Config.minMatch ≤ m.2) : tokenBytes d i m = [d[i]] := by
  rw [tokenBytes, if_neg short, List.drop_eq_getElem_cons hi, List.take_succ_cons, List.take_zero]

/-- A back-reference as the compressor writes it is read whole and is canonical (30_encoding.md R93, R94). -/
theorem decode_tokenBytes {d : List Byte} {i : Nat} (long : Config.minMatch ≤ (find d i).2) (rest : List Byte) :
    ∃ r, decode .reference (tokenBytes d i (find d i) ++ rest) = .ok (r, rest) ∧ refCanonical r i = true ∧
      (refLength r).toNat = (find d i).2 := by
  obtain ⟨offset, length, -⟩ := find_le d i
  have offsetFits : (find d i).1 < 2 ^ 14 := (offset.trans (Nat.min_le_right _ _)).trans_lt (by decide)
  have lengthFits : (find d i).2 < 2 ^ 12 := length.trans_lt (by decide)
  obtain ⟨r, hdecode, hencode, hoff, hlen⟩ := decode_pack offsetFits lengthFits rest
  refine ⟨r, by rw [tokenBytes_long long]; exact hdecode, ?_, hlen⟩
  simp only [refCanonical, hoff, hlen, hencode, beq_self_eq_true, find_offset_pos long, offset, long, length,
    decide_true, Bool.and_self]

/-- Where the flag bit tells the kind of the token, `wfCbFrom` reads the token that the compressor makes at its position
and goes on after it (R86 to R88, R95). -/
theorem wfCbFrom_token {d : List Byte} {t i : Nat} {flags : BitVec 8} (ht : t ≠ Config.group) (hi : i < d.length)
    (kind : flags.getLsbD t = decide (Config.minMatch ≤ (find d i).2)) (fuel : Nat) (rest : List Byte) :
    wfCbFrom (fuel + 1) t flags (tokenBytes d i (find d i) ++ rest) i =
      wfCbFrom fuel (t + 1) flags rest (i + tokenAdvance (find d i)) := by
  by_cases long : Config.minMatch ≤ (find d i).2
  · obtain ⟨r, hdecode, canonical, hlen⟩ := decode_tokenBytes long rest
    obtain ⟨b, bs, hbytes⟩ :=
      List.exists_cons_of_ne_nil (List.append_ne_nil_of_left_ne_nil (tokenBytes_ne_nil hi (find d i)) rest)
    rw [hbytes] at hdecode ⊢
    rw [wfCbFrom, if_neg ht, if_pos (by rw [kind, decide_eq_true long]), hdecode, tokenAdvance, if_pos long]
    simp only [canonical, hlen, Bool.true_and]
  · rw [tokenBytes_short hi long, List.singleton_append, wfCbFrom, if_neg ht, if_neg (by simp [kind, long]),
      tokenAdvance, if_neg long]

/-! ### Groups -/

/-- One token of a group (R151). -/
theorem lzGroup_token {d : List Byte} {i : Nat} (n t : Nat) (hi : i < d.length) :
    lzGroup d (n + 1) t i =
      (tokenFlag t (find d i) ||| (lzGroup d n (t + 1) (i + tokenAdvance (find d i))).1,
        tokenBytes d i (find d i) ++ (lzGroup d n (t + 1) (i + tokenAdvance (find d i))).2.1,
        (lzGroup d n (t + 1) (i + tokenAdvance (find d i))).2.2) :=
  if_neg (Nat.not_le_of_lt hi)

theorem lzGroup_done {d : List Byte} {i : Nat} (n t : Nat) (done : d.length ≤ i) : lzGroup d n t i = (0, [], i) := by
  cases n with
  | zero => rfl
  | succ n => exact if_pos done

theorem le_lzGroup_position (d : List Byte) (n t i : Nat) : i ≤ (lzGroup d n t i).2.2 := by
  induction n generalizing t i with
  | zero => exact le_rfl
  | succ n ih =>
    rcases Nat.lt_or_ge i d.length with hi | done
    · rw [lzGroup_token n t hi]
      exact (Nat.le_add_right i _).trans (ih _ _)
    · rw [lzGroup_done _ t done]

theorem lt_lzGroup_position {d : List Byte} {i : Nat} (n t : Nat) (hi : i < d.length) :
    i < (lzGroup d (n + 1) t i).2.2 := by
  have advance := (tokenAdvance_bounds d i hi).1
  rw [lzGroup_token n t hi]
  exact (by omega : i < i + tokenAdvance (find d i)).trans_le (le_lzGroup_position d n _ _)

theorem lzGroup_payload_ne_nil {d : List Byte} {i : Nat} (n t : Nat) (hi : i < d.length) :
    (lzGroup d (n + 1) t i).2.1 ≠ [] := by
  rw [lzGroup_token n t hi]
  exact List.append_ne_nil_of_left_ne_nil (tokenBytes_ne_nil hi _) _

/-- A group of tokens from `t` on has no flag bit below `t` (R148). -/
theorem lzGroup_flag_low (d : List Byte) (n i : Nat) {t k : Nat} (low : k < t) (hk : k < Config.group) :
    (lzGroup d n t i).1.getLsbD k = false := by
  induction n generalizing t i with
  | zero => exact BitVec.getLsbD_zero
  | succ n ih =>
    rcases Nat.lt_or_ge i d.length with hi | done
    · rw [lzGroup_token n t hi, BitVec.getLsbD_or, tokenFlag_getLsbD _ hk, decide_eq_false low.ne', ih _ (by omega),
        Bool.false_and, Bool.or_false]
    · rw [lzGroup_done _ t done]
      exact BitVec.getLsbD_zero

/-- The bytes are a well-formed rest of a block where a FLAG is expected and `n` bytes have been produced (R95). -/
def WfGroups (bs : List Byte) (n : Nat) : Prop :=
  ∀ (fuel : Nat) (flags : BitVec 8), bs.length < fuel → wfCbFrom fuel Config.group flags bs n = true

theorem wfGroups_nil (n : Nat) : WfGroups [] n := by
  intro fuel flags hfuel
  obtain ⟨fuel, rfl⟩ := Nat.exists_eq_succ_of_ne_zero hfuel.ne'
  rfl

/-- No flag bit is left from `t` on. -/
theorem ushiftRight_eq_zero {flags : BitVec 8} {t : Nat}
    (unset : ∀ k, t ≤ k → k < Config.group → flags.getLsbD k = false) : flags >>> t = 0#8 := by
  refine BitVec.eq_of_getLsbD_eq fun k _ => ?_
  rw [BitVec.getLsbD_ushiftRight, BitVec.getLsbD_zero]
  rcases Nat.lt_or_ge (t + k) Config.group with inside | outside
  · exact unset _ (Nat.le_add_right t k) inside
  · exact BitVec.getLsbD_of_ge _ _ outside

/-- The block may end inside a group where no flag bit is left (R95). -/
theorem wfCbFrom_nil {fuel t : Nat} {flags : BitVec 8} (started : 0 < t) (unused : flags >>> t = 0) (hfuel : 0 < fuel)
    (n : Nat) : wfCbFrom fuel t flags [] n = true := by
  obtain ⟨fuel, rfl⟩ := Nat.exists_eq_succ_of_ne_zero hfuel.ne'
  simp [wfCbFrom, started, unused]

/-- The tokens of a group, read under flag bits that are the group's, and what follows: a FLAG where the group is full,
nothing where the input has ended. -/
theorem wfCbFrom_group (d : List Byte) {n t fuel i : Nat} {flags : BitVec 8} {more : List Byte}
    (tokens : t + n = Config.group) (started : 0 < t ∨ i < d.length)
    (bits : ∀ k, t ≤ k → k < Config.group → flags.getLsbD k = (lzGroup d n t i).1.getLsbD k)
    (ended : d.length ≤ (lzGroup d n t i).2.2 → more = []) (after : WfGroups more (lzGroup d n t i).2.2)
    (hfuel : ((lzGroup d n t i).2.1 ++ more).length < fuel) :
    wfCbFrom fuel t flags ((lzGroup d n t i).2.1 ++ more) i = true := by
  induction n generalizing t i fuel with
  | zero =>
    obtain rfl : t = Config.group := tokens
    exact after fuel flags hfuel
  | succ n ih =>
    have inGroup : t < Config.group := by omega
    rcases Nat.lt_or_ge i d.length with hi | done
    · rw [lzGroup_token n t hi] at bits ended after hfuel ⊢
      have kind : flags.getLsbD t = decide (Config.minMatch ≤ (find d i).2) := by
        rw [bits t le_rfl inGroup, BitVec.getLsbD_or, tokenFlag_getLsbD _ inGroup,
          lzGroup_flag_low d n _ t.lt_succ_self inGroup, decide_eq_true rfl, Bool.true_and, Bool.or_false]
      have later (k : Nat) (low : t + 1 ≤ k) (high : k < Config.group) :
          flags.getLsbD k = (lzGroup d n (t + 1) (i + tokenAdvance (find d i))).1.getLsbD k := by
        rw [bits k (by omega) high, BitVec.getLsbD_or, tokenFlag_getLsbD _ high, decide_eq_false (by omega : t ≠ k),
          Bool.false_and, Bool.false_or]
      have nonempty := (tokenBytes_length d i hi (find d i)).1
      rw [List.append_assoc] at hfuel ⊢
      rw [List.length_append] at hfuel
      obtain ⟨fuel, rfl⟩ := Nat.exists_eq_succ_of_ne_zero (Nat.ne_zero_of_lt hfuel)
      rw [wfCbFrom_token inGroup.ne hi kind]
      exact ih (by omega) (.inl t.succ_pos) later ended after (by omega)
    · rw [lzGroup_done _ t done] at bits ended hfuel ⊢
      rw [ended done] at hfuel ⊢
      have unused : flags >>> t = 0 :=
        ushiftRight_eq_zero fun k low high => (bits k low high).trans BitVec.getLsbD_zero
      exact wfCbFrom_nil (started.resolve_right done.not_gt) unused (Nat.zero_lt_of_lt hfuel) i

/-! ### Blocks -/

theorem lzGroups_done {d : List Byte} {i : Nat} (fuel : Nat) (done : d.length ≤ i) : lzGroups d fuel i = [] := by
  cases fuel with
  | zero => rfl
  | succ fuel => exact if_pos done

/-- One group of a block (R151): its FLAG byte, its payload, and the groups after it. -/
theorem lzGroups_group {d : List Byte} {i : Nat} (fuel : Nat) (hi : i < d.length) :
    lzGroups d (fuel + 1) i =
      (lzGroup d Config.group 0 i).1 ::
        ((lzGroup d Config.group 0 i).2.1 ++ lzGroups d fuel (lzGroup d Config.group 0 i).2.2) :=
  if_neg (Nat.not_le_of_lt hi)

/-- A FLAG byte with a token after it opens a group (R95). -/
theorem wfCbFrom_flag {bs : List Byte} (token : bs ≠ []) (fuel : Nat) (flags b : BitVec 8) (n : Nat) :
    wfCbFrom (fuel + 1) Config.group flags (b :: bs) n = wfCbFrom fuel 0 b bs n := by
  rw [wfCbFrom, if_pos rfl, List.isEmpty_eq_false_iff.2 token, Bool.not_false, Bool.true_and]

/-- Every rest of a block that the compressor makes is well-formed. -/
theorem wfGroups_lzGroups (d : List Byte) {fuel i : Nat} (enough : d.length ≤ i + fuel) :
    WfGroups (lzGroups d fuel i) i := by
  induction fuel generalizing i with
  | zero => exact wfGroups_nil i
  | succ fuel ih =>
    rcases Nat.lt_or_ge i d.length with hi | done
    · have advances : i < (lzGroup d Config.group 0 i).2.2 := lt_lzGroup_position 7 0 hi
      have payload : (lzGroup d Config.group 0 i).2.1 ≠ [] := lzGroup_payload_ne_nil 7 0 hi
      intro fuel' flags hfuel
      rw [lzGroups_group fuel hi] at hfuel ⊢
      obtain ⟨fuel', rfl⟩ := Nat.exists_eq_succ_of_ne_zero (Nat.ne_zero_of_lt hfuel)
      rw [wfCbFrom_flag (List.append_ne_nil_of_left_ne_nil payload _)]
      exact wfCbFrom_group d rfl (.inr hi) (fun _ _ _ => rfl) (lzGroups_done fuel) (ih (by omega))
        (Nat.lt_of_succ_lt_succ hfuel)
    · rw [lzGroups_done _ done]
      exact wfGroups_nil i

/-- Settles O44: a block is the groups from position 0 on, where nothing has been produced. -/
theorem compressedBlockWellFormed : Obligations.CompressedBlockWellFormed := fun d =>
  wfGroups_lzGroups d (Nat.le_add_left _ _) _ _ (Nat.lt_succ_self _)

end Sys2Proof.Machine
end

section
/-! PROOF. Words of the opcode table, the reserved codes (30_encoding.md R105), and the items of the containers (R97 to
R99). -/

namespace Sys2Proof.Machine

/-- Settles O3: the decoder is run on the thirteen words. -/
theorem tableWordsDecode : Obligations.TableWordsDecode := by
  unfold Obligations.TableWordsDecode
  decide

/-! ### Reserved codes -/

/-- An idle BFC stores the fields of a reserved code and does nothing else (R105). -/
theorem storeReserved_idle (code : BitVec 4) (f : CmdFields) {s : State} (idle : s.status.busy = false) :
    storeReserved code f s = .next { s with ctrl := ctrlFields code f } :=
  if_neg (ne_true_of_eq_false idle)

/-- A reserved code of `CTRL.OP` selects the store of its fields. -/
theorem exec_commandOf_reserved {op : BitVec 4} (reserved : op.toNat = 0 ∨ 10 ≤ op.toNat) (f : CmdFields)
    (s : State) : exec (commandOf op f) s = storeReserved op f s := by
  obtain ⟨n, hn⟩ := op
  have cases : n = 0 ∨ n = 10 ∨ n = 11 ∨ n = 12 ∨ n = 13 ∨ n = 14 ∨ n = 15 := by
    simp only [BitVec.toNat_ofFin] at reserved
    omega
  rcases cases with rfl | rfl | rfl | rfl | rfl | rfl | rfl <;> rfl

theorem writeCtrl_start {v : Word} (start : v.getLsbD 31 = true) (s : State) :
    writeCtrl v s = exec (commandOf (v.extractLsb' 0 4) (cmdFieldsOf v)) s := by
  have hdec : decodeCommand v = .ok (commandOf (v.extractLsb' 0 4) (cmdFieldsOf v)) := if_pos start
  simp only [writeCtrl, hdec]

/-- Settles O9: the code of the word selects one of the seven stores, and each store is the same one. -/
theorem reservedCodesStoreFields : Obligations.ReservedCodesStoreFields := by
  refine ⟨fun v s idle start reserved => ?_, fun f s idle => ?_⟩
  · have code : (v.extractLsb' 0 4).toNat = v.toNat % 16 := by simp [BitVec.extractLsb'_toNat]
    rw [writeCtrl_start start, exec_commandOf_reserved (by rwa [code]), storeReserved_idle _ _ idle]
    rfl
  · have store (code : BitVec 4) := storeReserved_idle code f idle
    exact ⟨store 0, store 10, store 11, store 12, store 13, store 14, store 15⟩

/-! ### Items of the containers -/

/-- The total of a decode is the product of the geometry, which fits in 64 bits (43_single_image.md R195). -/
theorem totalBits_eq (w h : Word) : totalBits w h = BitVec.ofNat 64 (w.toNat * h.toNat) := by
  refine BitVec.eq_of_toNat_eq ?_
  rw [totalBits, BitVec.toNat_mul, BitVec.toNat_setWidth_of_le (by decide), BitVec.toNat_setWidth_of_le (by decide),
    BitVec.toNat_ofNat]

/-- Settles O14: the meaning of each item; the total as a product, the zero test taken apart. -/
theorem containerItemsComplete : Obligations.ContainerItemsComplete := by
  refine ⟨fun w h s => ?_, fun w h rate count s => ?_, fun n s => rfl⟩
  · rw [← totalBits_eq]
    rfl
  · rw [Bool.or_assoc]
    rfl

end Sys2Proof.Machine
end

section
/-! PROOF. The run-length codec as functions (40_run_length.md R120 to R133): the decoder expands the encoder's records
back to the pixels, and the records follow the maximal runs. -/

namespace Sys2Proof.Machine

/-! ### What the decoder returns -/

/-- The value to pad with is that of the last record, or the START byte (40_run_length.md R130, R131). -/
theorem padValue_eq (cur : Byte) (runs : List Byte) :
    padValue cur runs =
      match runs.getLast? with
      | some r => (r.extractLsb' 0 4).setWidth 8
      | none => cur := by
  rcases runs.eq_nil_or_concat with rfl | ⟨runs, r, rfl⟩
  · rfl
  · simp [padValue]

theorem rleDec_length (s : List Byte) (total : Nat) : (rleDec s total).length = total := by
  simp only [rleDec, List.length_append, List.length_take, List.length_replicate]
  omega

/-- Settles O38: below the length of the expansion the decoder indexes it, from there on the padding. -/
theorem runLengthDecodeExact : Obligations.RunLengthDecodeExact := by
  intro s total
  refine ⟨rleDec_length s total, List.length_eq_zero_iff.1 (rleDec_length s 0), fun k cut inside => ?_,
    fun k cut outside => ?_⟩
  · rw [rleDec, List.getElem?_append_left (by rw [List.length_take]; omega), List.getElem?_take_of_lt cut]
  · have taken : (s.tail.flatMap runElements).take total = s.tail.flatMap runElements :=
      List.take_of_length_le (by omega)
    rw [rleDec, taken, List.getElem?_append_right outside, List.getElem?_replicate_of_lt (by omega)]
    exact congrArg some (padValue_eq _ _)

/-! ### The round trip -/

theorem pixel_setWidth (b : BitVec 1) : (b.setWidth 4).setWidth 8 = b.setWidth 8 := by simp

theorem runElements_runByte {n : Nat} (fits : n ≤ Config.runMax) (b : BitVec 1) :
    runElements (runByte (BitVec.ofNat 4 n) (b.setWidth 4)) = List.replicate n (b.setWidth 8) := by
  have count := runCount_runByte fits (b.setWidth 4)
  rw [runCount] at count
  rw [runElements, count, runByte_value, pixel_setWidth]

/-- The records expand to the run being counted and the pixels after it. -/
theorem flatMap_runElements_rleRuns {cur : BitVec 1} {cnt : Nat} (bits : List (BitVec 1))
    (fits : cnt ≤ Config.runMax) :
    (rleRuns cur cnt bits).flatMap runElements =
      List.replicate cnt (cur.setWidth 8) ++ bits.map (BitVec.setWidth 8) := by
  induction bits generalizing cur cnt with
  | nil => simp [rleRuns, runElements_runByte fits]
  | cons b bits ih =>
    simp only [rleRuns]
    split
    next ends => rw [List.flatMap_cons, runElements_runByte fits, ih (by decide)]; rfl
    next goesOn =>
      obtain ⟨same, room⟩ : b = cur ∧ cnt ≠ Config.runMax := by simpa using goesOn
      rw [ih (by omega), List.replicate_succ', same, List.append_assoc]
      rfl

theorem flatMap_runElements_rleEnc (bits : List (BitVec 1)) :
    (rleEnc bits).tail.flatMap runElements = bits.map (BitVec.setWidth 8) := by
  cases bits with
  | nil => rfl
  | cons b bits => exact flatMap_runElements_rleRuns bits (by decide)

/-- Settles O37: the expansion is the pixels, as many as the total, so nothing is cut and nothing padded. -/
theorem runLengthRoundTrip : Obligations.RunLengthRoundTrip := by
  intro bits
  simp [rleDec, flatMap_runElements_rleEnc, List.take_of_length_le]

/-! ### The shape by maximal runs -/

/-- The records of a maximal run of `n` pixels `b` (40_run_length.md R125). -/
def runRecords (n : Nat) (b : BitVec 1) : List Byte :=
  List.replicate (n / 15) (runByte 15 (b.setWidth 4)) ++
    if n % 15 = 0 then [] else [runByte (BitVec.ofNat 4 (n % 15)) (b.setWidth 4)]

/-- `q` full records and a last one of 1 to 15 are the records of a run. -/
theorem runRecords_eq (q : Nat) {n : Nat} (pos : 1 ≤ n) (fits : n ≤ Config.runMax) (b : BitVec 1) :
    runRecords (15 * q + n) b =
      List.replicate q (runByte 15 (b.setWidth 4)) ++ [runByte (BitVec.ofNat 4 n) (b.setWidth 4)] := by
  rcases fits.lt_or_eq with (part : n < 15) | rfl
  · have div : (15 * q + n) / 15 = q := by omega
    have mod : (15 * q + n) % 15 = n := by omega
    rw [runRecords, div, mod, if_neg (by omega)]
  · have div : (15 * q + 15) / 15 = q + 1 := by omega
    have mod : (15 * q + 15) % 15 = 0 := by omega
    rw [runRecords, div, mod, if_pos rfl, List.append_nil, List.replicate_succ']
    rfl

/-- A run is maximal where the pixel after it differs. -/
theorem splitBy_replicate_append {n : Nat} (pos : 1 ≤ n) (cur : BitVec 1) {bits : List (BitVec 1)}
    (differs : ∀ b ∈ bits.head?, b ≠ cur) :
    (List.replicate n cur ++ bits).splitBy (· == ·) = List.replicate n cur :: bits.splitBy (· == ·) := by
  have same : (List.replicate n cur).IsChain fun x y => (x == y) = true :=
    List.isChain_replicate_of_rel n (beq_self_eq_true cur)
  rw [List.splitBy_append, List.splitBy_of_isChain (by simp; omega) same]
  · rfl
  · intro x hx y hy
    obtain rfl : x = cur := by simpa [Nat.ne_of_gt pos] using List.eq_of_mem_replicate (List.mem_of_getLast? hx)
    exact beq_false_of_ne (differs y hy).symm

/-- The records of the maximal runs of some pixels, one run after the other. -/
def maximalRunRecords (bits : List (BitVec 1)) : List Byte :=
  (bits.splitBy (· == ·)).flatMap fun r => runRecords r.length (r.headD 0)

theorem maximalRunRecords_run (q : Nat) {n : Nat} (pos : 1 ≤ n) (fits : n ≤ Config.runMax) {cur : BitVec 1}
    {bits : List (BitVec 1)} (differs : ∀ b ∈ bits.head?, b ≠ cur) :
    maximalRunRecords (List.replicate (15 * q + n) cur ++ bits) =
      List.replicate q (runByte 15 (cur.setWidth 4)) ++
        runByte (BitVec.ofNat 4 n) (cur.setWidth 4) :: maximalRunRecords bits := by
  have value : (List.replicate (15 * q + n) cur).headD 0 = cur := by
    rw [List.headD_eq_head?_getD, List.head?_replicate, if_neg (by omega), Option.getD_some]
  rw [maximalRunRecords, splitBy_replicate_append (by omega) cur differs, List.flatMap_cons, List.length_replicate,
    value, runRecords_eq q pos fits, List.append_assoc]
  rfl

/-- The records after `q` full ones, with a run being counted: those of the maximal runs of all these pixels. -/
theorem maximalRunRecords_eq_rleRuns {cur : BitVec 1} (q : Nat) {cnt : Nat} (bits : List (BitVec 1)) (pos : 1 ≤ cnt)
    (fits : cnt ≤ Config.runMax) :
    maximalRunRecords (List.replicate (15 * q + cnt) cur ++ bits) =
      List.replicate q (runByte 15 (cur.setWidth 4)) ++ rleRuns cur cnt bits := by
  induction bits generalizing cur q cnt with
  | nil => exact maximalRunRecords_run q pos fits (by simp)
  | cons b bits ih =>
    rw [rleRuns]
    by_cases changes : b ≠ cur
    · rw [maximalRunRecords_run q pos fits (by simpa using changes), if_pos (.inl changes)]
      exact congrArg _ (congrArg _ (ih 0 le_rfl (by decide)))
    obtain rfl : b = cur := not_not.1 changes
    rw [List.append_cons, ← List.replicate_succ']
    by_cases full : cnt = Config.runMax
    · rw [if_pos (.inr full), full]
      refine (ih (q + 1) le_rfl (by decide)).trans ?_
      rw [List.replicate_succ', ← List.append_cons]
      rfl
    · rw [if_neg (by simp [full])]
      exact ih q (cnt := cnt + 1) (by omega) (by omega)

/-- Settles O39: after START the records are those of the maximal runs, the first pixel being a run of one so far. -/
theorem runLengthShape : Obligations.RunLengthShape := fun b bits =>
  congrArg (b.setWidth 8 :: ·) (maximalRunRecords_eq_rleRuns 0 bits le_rfl (by decide)).symm

end Sys2Proof.Machine
end

section
/-! PROOF. A step of a decode operation runs the instruction at its place (40 R128, 42 R180, 43 R192, 44 R205, R206):
for each operation what its move is there, as one equation. -/

namespace Sys2Proof.Machine

/-! ### Taking a beat -/

theorem takeIn_data {s : State} {b : Byte} {rest : List Beat} (inq : s.inq = .data b :: rest)
    (admitted : s.inTaken + 1 < Config.posLimit) (onData : Byte → State → Move) (onEnd : State → Move) :
    takeIn s onData onEnd = onData b { s with inq := rest, inTaken := s.inTaken + 1 } := by
  simp only [takeIn, inq, if_pos admitted]

theorem takeIn_fin {s : State} {rest : List Beat} (inq : s.inq = .fin :: rest) (onData : Byte → State → Move)
    (onEnd : State → Move) : takeIn s onData onEnd = onEnd { s with inq := rest, inTaken := 0 } := by
  simp only [takeIn, inq]

/-! ### The move of a running operation -/

theorem opMove_rleEnc {s : State} (op : s.cfg.op = .rleEnc) : opMove s = rleEncMove s := by rw [opMove, op]

theorem opMove_rleDec {s : State} (op : s.cfg.op = .rleDec) (going : s.rld.ending = false) :
    opMove s =
      takeIn s (fun b s => decodeMove (if s.rld.first then .runStart else .runRecord) [b] (.next s) s)
        (fun s => .unit (.next (rldInputEnd s))) := by
  rw [opMove, op]
  exact if_neg (by simp [going])

theorem opMove_lzDecomp {s : State} (op : s.cfg.op = .lzDecomp) :
    opMove s = lzdMove s (takeIn s lzdByte (fun s => .unit (.next (outEnd s)))) := by
  rw [opMove, op]
  rfl

theorem opMove_imgDec {s : State} (op : s.cfg.op = .imgDec) (going : s.rld.ending = false)
    (phase : s.fpr.phase = .decode) :
    opMove s = lzdMove s (takeIn s lzdByte (fun s => .unit (.next (rldInputEnd s)))) := by
  rw [opMove, op]
  simp only [imgDecMove, going, phase]
  rfl

theorem opMove_imgDec_header {s : State} (op : s.cfg.op = .imgDec) (going : s.rld.ending = false)
    (phase : s.fpr.phase = .hdr) : opMove s = fprCollect 8 .imgHeader .malformedHeader s := by
  rw [opMove, op]
  simp only [imgDecMove, going, phase]
  rfl

theorem opMove_vidHdr {s : State} (op : s.cfg.op = .vidHdr) (phase : s.fpr.phase = .hdr) :
    opMove s = fprCollect 12 .vidHeader .malformedHeader s := by
  rw [opMove, op]
  simp only [vidHdrMove, phase]

theorem opMove_vidFrame {s : State} (op : s.cfg.op = .vidFrame) (going : s.rld.ending = false)
    (phase : s.fpr.phase = .decode) : opMove s = lzdMove s (lzdFromPbuf s) := by
  rw [opMove, op]
  simp only [vidFrameMove, going, phase]
  rfl

theorem opMove_vidFrame_length {s : State} (op : s.cfg.op = .vidFrame) (going : s.rld.ending = false)
    (phase : s.fpr.phase = .len) : opMove s = fprCollect 4 .frameLen .truncatedPayload s := by
  rw [opMove, op]
  simp only [vidFrameMove, going, phase]
  rfl

/-- With its input ended, an operation that uses RLD pads. -/
theorem opMove_ending {s : State} (uses : s.cfg.op.usesRld = true) (ending : s.rld.ending = true) :
    opMove s = .unit (.next (rldPad s)) := by
  cases op : s.cfg.op with
  | rleDec => simp only [opMove, op, rleDecMove, ending, if_true]
  | imgDec => simp only [opMove, op, imgDecMove, ending, if_true]
  | vidFrame => simp only [opMove, op, vidFrameMove, ending, if_true]
  | none | rleEnc | lzComp | imgEnc | vidEnc | lzDecomp | vidHdr => simp [op, Op.usesRld] at uses

/-! ### A step runs the instruction at its place -/

theorem decodeMove_ok {ctx : Ctx} {bs rest : List Byte} {i : Instr} (read : decode ctx bs = .ok (i, rest))
    (cut : Result) (s : State) : decodeMove ctx bs cut s = .instr i s := by
  simp only [decodeMove, read]

theorem fprCollect_whole {n : Nat} {ctx : Ctx} {i : Instr} {s : State} (whole : n ≤ s.fpr.hcnt)
    (read : decode ctx s.fpr.stage = .ok (i, [])) (e : Exc) : fprCollect n ctx e s = .instr i s := by
  rw [fprCollect, if_pos whole, decodeMove_ok read]

theorem Running.op_eq {op : Op} {s : State} (run : Running op s) : s.cfg.op = op := run.2.2

/-- In BFC's turn a step of a running operation runs the instruction that has been fetched. -/
theorem BfcTurn.step_instr {s s0 t : State} {op : Op} {i : Instr} (turn : BfcTurn s s0) (run : Running op s0)
    (fetched : opMove s0 = .instr i t) : step s = exec i t :=
  turn.step_eq (bfcMove_instr run.2.1 run.1 fetched)

/-- The byte is a whole instruction to LZD: a FLAG, or a literal (R180). -/
def LzdPlace (b : Byte) (i : Instr) (l : Lzd) : Prop :=
  (l.phase = .flag ∧ decode .flag [b] = .ok (i, [])) ∨
    (l.phase = .token ∧ l.flags.getLsbD l.t = false ∧ decode .literal [b] = .ok (i, []))

theorem LzdPlace.lzdByte_eq {b : Byte} {i : Instr} {s : State} (place : LzdPlace b i s.lzd)
    (room : s.lzd.p + 1 < Config.posLimit) : lzdByte b s = .instr i (lzdCounted s) := by
  rw [Machine.lzdByte_eq, if_pos room]
  rcases place with ⟨phase, read⟩ | ⟨phase, bit, read⟩
  · cases read
    rw [if_pos phase]
  · cases read
    rw [if_neg (by simp [phase]), if_pos ⟨phase, bit⟩]

/-- LZD takes a byte there, no back-reference being whole. -/
theorem LzdPlace.lzdMove_eq {b : Byte} {i : Instr} {s : State} (place : LzdPlace b i s.lzd) (next : Move) :
    lzdMove s next = next := by
  refine if_neg ?_
  rcases place with ⟨phase, -⟩ | ⟨phase, -⟩ <;> simp [phase]

/-- Settles O17: at each place the move of the operation is the instruction that the bytes there decode to. -/
theorem stepRunsDecoded : Obligations.StepRunsDecoded := by
  intro s s0 turn
  refine ⟨?runByte, ?lzdByte, ?payloadByte, ?reference, ?imgHeader, ?vidHeader, ?frameLen⟩
  case runByte =>
    intro b rest i run going inq admitted read
    refine turn.step_instr run ?_
    rw [opMove_rleDec run.op_eq going, takeIn_data inq admitted, decodeMove_ok read]
  case lzdByte =>
    intro b rest i run inq admitted room place
    change LzdPlace b i s0.lzd at place
    have byte := LzdPlace.lzdByte_eq (s := { s0 with inq := rest, inTaken := s0.inTaken + 1 }) place room
    rcases run with run | ⟨run, going, phase⟩
    · refine turn.step_instr run ?_
      rw [opMove_lzDecomp run.op_eq, place.lzdMove_eq, takeIn_data inq admitted, byte]
    · refine turn.step_instr run ?_
      rw [opMove_imgDec run.op_eq going phase, place.lzdMove_eq, takeIn_data inq admitted, byte]
  case payloadByte =>
    intro b i run going phase more read place
    change LzdPlace b i s0.lzd at place
    have small : s0.fpr.need.toNat < 2 ^ 32 := s0.fpr.need.isLt
    have room : s0.lzd.p + 1 < Config.posLimit := by
      rw [Config.posLimit]
      omega
    refine turn.step_instr run ?_
    rw [opMove_vidFrame run.op_eq going phase, place.lzdMove_eq, lzdFromPbuf, if_pos more]
    simp only [read, place.lzdByte_eq room]
  case reference =>
    intro i run phase read
    have reference (next : Move) : lzdMove s0 next = .instr i s0 := by rw [lzdMove, if_pos phase, decodeMove_ok read]
    rcases run with run | ⟨run | run, going, decoding⟩
    · exact turn.step_instr run ((opMove_lzDecomp run.op_eq).trans (reference _))
    · exact turn.step_instr run ((opMove_imgDec run.op_eq going decoding).trans (reference _))
    · exact turn.step_instr run ((opMove_vidFrame run.op_eq going decoding).trans (reference _))
  case imgHeader =>
    intro i run going phase whole read
    refine turn.step_instr run ?_
    rw [opMove_imgDec_header run.op_eq going phase, fprCollect_whole whole.ge read]
  case vidHeader =>
    intro i run phase whole read
    refine turn.step_instr run ?_
    rw [opMove_vidHdr run.op_eq phase, fprCollect_whole whole.ge read]
  case frameLen =>
    intro i run going phase whole read
    refine turn.step_instr run ?_
    rw [opMove_vidFrame_length run.op_eq going phase, fprCollect_whole whole.ge read]

end Sys2Proof.Machine
end

section
/-! PROOF. Runs of an operation with a host that serves it (00_scope.md R13, R275): a run is steps one after the other;
what a move puts out is delivered beat by beat before the next move, and the end marker ends the operation. -/

namespace Sys2Proof.Machine

/-! ### Reaching -/

theorem run_succ_of_step {M : Host.Core} {s t : M.State} (move : M.step s = .next t) (k : Nat) :
    M.run (k + 1) s = M.run k t := by
  rw [Host.Core.run, move]

namespace Reaches

theorem here {s : State} {P : State → Prop} (h : P s) : Reaches s P := ⟨0, s, rfl, h⟩

theorem step {s t : State} {P : State → Prop} (move : Machine.step s = .next t) (h : Reaches t P) : Reaches s P := by
  obtain ⟨k, u, run, hu⟩ := h
  exact ⟨k + 1, u, (run_succ_of_step (M := Sys2Proof.core) move k).trans run, hu⟩

theorem mono {s : State} {P Q : State → Prop} (h : Reaches s P) (imp : ∀ t, P t → Q t) : Reaches s Q :=
  let ⟨k, t, run, ht⟩ := h
  ⟨k, t, run, imp t ht⟩

end Reaches

/-- The end of a run that has sent `sent` before. -/
theorem EndedDone.after {s u t : State} {geom0 : Bool} {sent out rest : List Beat}
    (received : u.received = s.received ++ sent) (h : EndedDone u geom0 out rest t) :
    EndedDone s geom0 (sent ++ out) rest t := by
  obtain ⟨status, quiet, recv, inq⟩ := h
  exact ⟨status, quiet, by rw [recv, received, List.append_assoc], inq⟩

theorem message_append (as bs : List Byte) : message (as ++ bs) = as.map Beat.data ++ message bs := by
  simp [message]

/-! ### Delivery -/

/-- The state after these bytes have been delivered, nothing being left on OUT. -/
def delivered (bs : List Byte) (s : State) : State :=
  { s with outPend := [], received := s.received ++ bs.map Beat.data }

/-- The state after these bytes and the end marker have been delivered: the operation has ended (R225). -/
def deliveredEnd (bs : List Byte) (s : State) : State :=
  finishOp { s with outPend := [], received := s.received ++ message bs }

theorem outBytes_nil (s : State) : outBytes [] s = s := by simp [outBytes]

theorem step_deliver {s : State} {b : Beat} {rest : List Beat} (serves : HostServes s) (out : s.outPend = b :: rest) :
    step s = .next (acceptBeat b rest s) := by
  rw [step_of_no_script serves.1, bfcMove_deliver out serves.2, Option.getD_some]

/-- A serving host takes the data beats on OUT one after the other (20_memory.md R65, R71). -/
theorem Reaches.deliver {s : State} {P : State → Prop} (serves : HostServes s) (bs : List Byte) (q : List Beat)
    (h : Reaches { s with outPend := q, received := s.received ++ bs.map Beat.data } P) :
    Reaches { s with outPend := bs.map Beat.data ++ q } P := by
  induction bs generalizing s with
  | nil => simpa using h
  | cons b bs ih =>
    refine .step (step_deliver serves rfl) (ih (s := { s with received := s.received ++ [.data b] }) serves ?_)
    simpa using h

/-- What a move puts out is delivered before the next move (log 8). -/
theorem Reaches.outBytes {s : State} {P : State → Prop} {bs : List Byte} (serves : HostServes s)
    (quiet : s.outPend = []) (h : Reaches (delivered bs s) P) : Reaches (outBytes bs s) P := by
  have run := Reaches.deliver serves bs [] h
  simpa [Machine.outBytes, quiet] using run

/-- The last bytes of a message and its end marker are delivered, and the operation has ended (R13, R225). -/
theorem Reaches.outEnd {s : State} {P : State → Prop} {bs : List Byte} (serves : HostServes s)
    (quiet : s.outPend = []) (h : P (deliveredEnd bs s)) : Reaches (outEnd (Machine.outBytes bs s)) P := by
  have ended : Reaches { s with outPend := [.fin], received := s.received ++ bs.map Beat.data } P := by
    refine .step (step_deliver serves rfl) (.here ?_)
    simpa [deliveredEnd, acceptBeat, message] using h
  have run := Reaches.deliver serves bs [.fin] ended
  simpa [Machine.outBytes, Machine.outEnd, quiet] using run

/-! ### An operation under way -/

/-- The operation runs, with a host that serves it, and all it has put out so far has been delivered. -/
structure UnderWay (op : Op) (s : State) : Prop where
  serves : HostServes s
  op_eq : s.cfg.op = op
  status : s.status = statusStarted
  quiet : s.outPend = []

namespace UnderWay

theorem delivered {op : Op} {s : State} (h : UnderWay op s) (bs : List Byte) : UnderWay op (delivered bs s) :=
  { h with quiet := rfl }

/-- With the host serving, a move of the operation is a step. -/
theorem reaches_of_move {op : Op} {s t : State} {P : State → Prop} (h : UnderWay op s) (move : (opMove s).LeadsTo t)
    (run : Reaches t P) : Reaches s P := by
  have busy : s.status.busy = true := by rw [h.status]; rfl
  have bfc : bfcMove s = some (.next t) := by
    cases hmove : opMove s with
    | wait => simp [hmove] at move
    | unit r => rw [bfcMove_unit h.quiet busy hmove, (Move.unit_leadsTo r t).1 (hmove ▸ move)]
    | instr i u => rw [bfcMove_instr h.quiet busy hmove, (Move.instr_leadsTo i u t).1 (hmove ▸ move)]
  exact .step ((step_of_no_script h.serves.1).trans (by rw [bfc, Option.getD_some])) run

/-- A move that puts out bytes, and their delivery. -/
theorem reaches_of_out {op : Op} {s t : State} {bs : List Byte} {P : State → Prop} (h : UnderWay op s)
    (move : (opMove s).LeadsTo (outBytes bs t)) (next : UnderWay op t) (run : Reaches (Machine.delivered bs t) P) :
    Reaches s P :=
  h.reaches_of_move move (.outBytes next.serves next.quiet run)

/-- With the end marker delivered the operation has ended with `DONE` (R13, R225). -/
theorem deliveredEnd_endedDone {op : Op} {s : State} (h : UnderWay op s) (bs : List Byte) :
    EndedDone s (zeroGeometry s) (message bs) s.inq (deliveredEnd bs s) := by
  refine ⟨?_, rfl, rfl, rfl⟩
  simp [deliveredEnd, h.status, statusDone, statusGeom, statusStarted, zeroGeometry]

/-- A move that puts out the last bytes and the end marker: the operation ends with `DONE`. -/
theorem reaches_endedDone {op : Op} {s t : State} {bs : List Byte} {geom0 : Bool} {rest : List Beat}
    (h : UnderWay op s) (move : (opMove s).LeadsTo (outEnd (outBytes bs t))) (next : UnderWay op t)
    (geometry : zeroGeometry t = geom0) (received : t.received = s.received) (inq : t.inq = rest) :
    Reaches s (EndedDone s geom0 (message bs) rest) := by
  have ended := next.deliveredEnd_endedDone bs
  rw [geometry, inq] at ended
  exact h.reaches_of_move move
    (.outEnd next.serves next.quiet (ended.after (sent := []) (by rw [received, List.append_nil])))

end UnderWay

/-- Only the operations with RLD behind LZD have a geometry that can be zero (60_exceptions.md R233). -/
theorem zeroGeometry_eq_false {s : State} (h : s.cfg.op.lzdFeedsRld = false) : zeroGeometry s = false := by
  simp [zeroGeometry, h]

/-- An idle BFC accepts a START (45_binarize_and_control.md R224). -/
theorem startOp_idle {op : Op} {s : State} (idle : s.status.busy = false) (f : CmdFields) :
    startOp op f s = .next (acceptStart op f s) := by
  simp [startOp, idle]

theorem UnderWay.acceptStart {op : Op} {s : State} (serves : HostServes s) (idle : Idle s) (f : CmdFields) :
    UnderWay op (acceptStart op f s) := by
  refine ⟨?_, ?_, acceptStart_status op f s, (acceptStart_outPend op f s).trans idle.2⟩
  · cases op <;> exact serves
  · cases op <;> rfl

end Sys2Proof.Machine
end

section
/-! PROOF. The run-length operations (40_run_length.md R120 to R132): what RLU and RLD put out for a whole input is the
functional form, and the moves of `RLE.ENC` and `RLE.DEC` put out just that. -/

namespace Sys2Proof.Machine

/-! ### Tokens of the RunStream -/

/-- Settles O10: START and RUN by their meanings, the elements of RUN being one value repeated. -/
theorem runStreamTokensComplete : Obligations.RunStreamTokensComplete := by
  refine ⟨fun v s => rfl, fun count value s => ?_⟩
  have elements := List.map_replicate (n := rldRoom count s.rld) (a := value.setWidth 8) (f := Beat.data)
  simp only [rldRoom] at elements
  rw [← elements]
  rfl

/-! ### RLU -/

/-- What RLU puts out for some pixels and the end of its input (40_run_length.md R121 to R123). -/
def rluBytes (r : Rlu) : List (BitVec 1) → List Byte
  | [] => (rluEnd r).2
  | p :: ps => (rluPixel p r).2 ++ rluBytes (rluPixel p r).1 ps

/-- With a run being counted RLU follows the loop of `RLE_ENC`. -/
theorem rluBytes_started (cur : BitVec 1) (cnt : BitVec 4) (bits : List (BitVec 1)) :
    rluBytes { started := true, cur := cur, cnt := cnt } bits = rleRuns cur cnt.toNat bits := by
  induction bits generalizing cur cnt with
  | nil => simp [rluBytes, rluEnd, rleRuns, encode]
  | cons p bits ih =>
    have full : cnt = 15 ↔ cnt.toNat = Config.runMax := BitVec.toNat_eq
    by_cases ends : p ≠ cur ∨ cnt = 15
    · have pixel : rluPixel p { started := true, cur := cur, cnt := cnt } =
          ({ started := true, cur := p, cnt := 1 }, [runByte cnt (cur.setWidth 4)]) := if_pos ends
      rw [rluBytes, pixel, ih, rleRuns, if_pos (ends.imp_right full.1), BitVec.ofNat_toNat, BitVec.setWidth_eq]
      rfl
    · have pixel : rluPixel p { started := true, cur := cur, cnt := cnt } =
          ({ started := true, cur := cur, cnt := cnt + 1 }, []) := if_neg ends
      have room : cnt ≠ 15 := fun h => ends (.inr h)
      have next : (cnt + 1).toNat = cnt.toNat + 1 := by bv_omega
      rw [rluBytes, pixel, ih, rleRuns, if_neg (ends <| ·.imp_right full.2), next]
      rfl

/-- RLU from its start values computes `RLE_ENC` (R120). -/
theorem rluBytes_init (bits : List (BitVec 1)) : rluBytes Rlu.init bits = rleEnc bits := by
  cases bits with
  | nil => rfl
  | cons b bits => exact congrArg (b.setWidth 8 :: ·) (rluBytes_started b 1 bits)

/-! ### RLE.ENC -/

theorem rleEnc_takes_pixel {s : State} {b : Byte} {rest : List Beat} (op : s.cfg.op = .rleEnc)
    (inq : s.inq = .data b :: rest) (admitted : s.inTaken + 1 < Config.posLimit) :
    (opMove s).LeadsTo (outBytes (rluPixel (binPixel s.cfg b) s.rlu).2
      { s with inq := rest, inTaken := s.inTaken + 1, rlu := (rluPixel (binPixel s.cfg b) s.rlu).1 }) := by
  rw [opMove_rleEnc op, rleEncMove, takeIn_data inq admitted]
  rfl

theorem rleEnc_takes_end {s : State} {rest : List Beat} (op : s.cfg.op = .rleEnc) (inq : s.inq = .fin :: rest) :
    (opMove s).LeadsTo
      (outEnd (outBytes (rluEnd s.rlu).2 { s with inq := rest, inTaken := 0, rlu := (rluEnd s.rlu).1 })) := by
  rw [opMove_rleEnc op, rleEncMove, takeIn_fin inq]
  rfl

/-- RLE.ENC on what is left of its message, from any state of RLU. -/
theorem rleEnc_reaches {bs : List Byte} {rest : List Beat} {s : State} (h : UnderWay .rleEnc s)
    (inq : s.inq = message bs ++ rest) (admitted : s.inTaken + bs.length < Config.posLimit) :
    Reaches s (EndedDone s false (message (rluBytes s.rlu (bs.map (binPixel s.cfg)))) rest) := by
  induction bs generalizing s with
  | nil =>
    have geom0 : zeroGeometry s = false := zeroGeometry_eq_false (by rw [h.op_eq]; rfl)
    exact h.reaches_endedDone (rleEnc_takes_end h.op_eq inq) { h with } geom0 rfl rfl
  | cons b bs ih =>
    rw [List.length_cons] at admitted
    refine h.reaches_of_out (rleEnc_takes_pixel h.op_eq inq (by omega)) { h with } ?_
    refine Reaches.mono (ih { h with quiet := rfl } rfl ?_) fun t ended => ?_
    · exact (Nat.add_right_comm _ 1 _).trans_lt admitted
    rw [List.map_cons, rluBytes, message_append]
    exact ended.after rfl

/-- Settles O51: START puts RLU at its start values; from there the moves put out `RLE_ENC` of the pixels. -/
theorem runsRleEnc : Obligations.RunsRleEnc := by
  intro f s bs rest serves idle inq admitted
  have run := rleEnc_reaches (.acceptStart serves idle f) inq admitted
  refine ⟨_, startOp_idle idle.1 f, run.mono fun t ended => ?_⟩
  rw [← rluBytes_init]
  exact ended.after (sent := []) (List.append_nil _).symm

/-! ### RLD -/

/-- What RLD still puts out once its input has ended (40_run_length.md R128, R130). -/
def rldPadding (r : Rld) : List Byte := List.replicate (r.total.toNat - r.produced) r.cur

/-- What RLD puts out for some bytes and the end of its input (40_run_length.md R128). -/
def rldOutput (bs : List Byte) (r : Rld) : List Byte := (rldBytes bs r).2 ++ rldPadding (rldBytes bs r).1

theorem rldOutput_cons (b : Byte) (bs : List Byte) (r : Rld) :
    rldOutput (b :: bs) r = (rldByte b r).2 ++ rldOutput bs (rldByte b r).1 := List.append_assoc _ _ _

theorem rldByte_first {r : Rld} (first : r.first = true) (b : Byte) : rldByte b r = (rldStart b r, []) := if_pos first

theorem rldByte_later {r : Rld} (later : r.first = false) (b : Byte) :
    rldByte b r = rldRun (b.extractLsb' 4 4) (b.extractLsb' 0 4) r := if_neg (by simp [later])

theorem rldOutput_run {r : Rld} (later : r.first = false) (b : Byte) (bs : List Byte) :
    rldOutput (b :: bs) r = (rldRun (b.extractLsb' 4 4) (b.extractLsb' 0 4) r).2 ++
      rldOutput bs (rldRun (b.extractLsb' 4 4) (b.extractLsb' 0 4) r).1 := by
  rw [rldOutput_cons, rldByte_later later]

theorem rldByte_ending (b : Byte) (r : Rld) : (rldByte b r).1.ending = r.ending := by
  rw [rldByte]
  split <;> rfl

/-- After START, RLD cuts the expansion of the records at what is missing to its total, or pads to it. -/
theorem rldOutput_records {r : Rld} (later : r.first = false) (runs : List Byte) :
    rldOutput runs r =
      (runs.flatMap runElements).take (r.total.toNat - r.produced) ++
        List.replicate (r.total.toNat - r.produced - (runs.flatMap runElements).length) (padValue r.cur runs) := by
  induction runs generalizing r with
  | nil => simp [rldOutput, rldBytes, rldPadding, padValue]
  | cons b runs ih =>
    have missing (n : Nat) :
        r.total.toNat - (r.produced + min n (r.total.toNat - r.produced)) = r.total.toNat - r.produced - n := by omega
    rw [rldOutput_run later, ih (r := (rldRun (b.extractLsb' 4 4) (b.extractLsb' 0 4) r).1) later]
    simp only [rldRun, rldRoom, missing, List.flatMap_cons, List.take_append, List.length_append, runElements,
      List.take_replicate, List.length_replicate, List.append_assoc]
    rw [Nat.sub_add_eq, min_comm]
    rfl

/-- RLD from its start values computes `RLE_DEC` (R127). -/
theorem rldOutput_init (bs : List Byte) (total : BitVec 64) :
    rldOutput bs { Rld.init with total := total } = rleDec bs total.toNat := by
  cases bs with
  | nil => simp [rldOutput, rldBytes, rldPadding, rleDec, padValue, Rld.init]
  | cons b runs => exact rldOutput_records (r := rldStart b { Rld.init with total := total }) rfl runs

/-! ### The padding of RLD -/

/-- The state in which a decode ends whose input has ended in `s`: RLD has padded to its total (R128, R130). -/
def rldPadded (s : State) : State :=
  deliveredEnd (rldPadding s.rld)
    { s with
      rld := { s.rld with produced := s.rld.produced + (s.rld.total.toNat - s.rld.produced) }
      fpr := if s.cfg.op.lzdFeedsRld then { s.fpr with phase := .idle } else s.fpr }

theorem rldPad_more {s : State} (more : s.rld.produced < s.rld.total.toNat) :
    rldPad s = outBytes [s.rld.cur] { s with rld := { s.rld with produced := s.rld.produced + 1 } } := if_pos more

theorem rldPad_done {s : State} (all : ¬s.rld.produced < s.rld.total.toNat) :
    rldPad s = outEnd { s with fpr := if s.cfg.op.lzdFeedsRld then { s.fpr with phase := .idle } else s.fpr } :=
  if_neg all

theorem rldPadded_of_more {s : State} (more : s.rld.produced < s.rld.total.toNat) :
    rldPadded (delivered [s.rld.cur] { s with rld := { s.rld with produced := s.rld.produced + 1 } }) =
      rldPadded s := by
  have missing : s.rld.total.toNat - s.rld.produced = s.rld.total.toNat - (s.rld.produced + 1) + 1 := by omega
  have produced : s.rld.produced + (s.rld.total.toNat - (s.rld.produced + 1) + 1) =
      s.rld.produced + 1 + (s.rld.total.toNat - (s.rld.produced + 1)) := by omega
  simp only [rldPadded, deliveredEnd, delivered, rldPadding, missing, produced, List.replicate_succ, List.append_assoc]
  rfl

/-- In every operation that uses RLD the padding goes out element by element, then the end marker (R128, R192, R206). -/
theorem UnderWay.reaches_rldPadded {op : Op} {s : State} {P : State → Prop} (h : UnderWay op s)
    (uses : op.usesRld = true) (ending : s.rld.ending = true) (done : P (rldPadded s)) : Reaches s P := by
  have move {s : State} (op_eq : s.cfg.op = op) (ending : s.rld.ending = true) : (opMove s).LeadsTo (rldPad s) := by
    rw [opMove_ending (op_eq ▸ uses) ending]
    rfl
  induction missing : s.rld.total.toNat - s.rld.produced generalizing s with
  | zero =>
    have last := move h.op_eq ending
    rw [rldPad_done (by omega), ← outBytes_nil { s with fpr := _ }] at last
    refine h.reaches_of_move last (.outEnd h.serves h.quiet ?_)
    rw [rldPadded, rldPadding, missing] at done
    exact done
  | succ n ih =>
    have next := move h.op_eq ending
    rw [rldPad_more (by omega)] at next
    have left : s.rld.total.toNat - (s.rld.produced + 1) = n := by omega
    refine h.reaches_of_out next { h with } (ih { h with quiet := rfl } ending ?_ left)
    rwa [rldPadded_of_more (by omega)]

/-- A decode whose padding is done has ended with `DONE` (R13, R225). -/
theorem UnderWay.rldPadded_endedDone {op : Op} {s : State} (h : UnderWay op s) :
    EndedDone s (zeroGeometry s) (message (rldPadding s.rld)) s.inq (rldPadded s) :=
  deliveredEnd_endedDone { h with } _

/-! ### RLE.DEC -/

theorem rleDec_takes_byte {s : State} {b : Byte} {rest : List Beat} (op : s.cfg.op = .rleDec)
    (going : s.rld.ending = false) (inq : s.inq = .data b :: rest) (admitted : s.inTaken + 1 < Config.posLimit) :
    (opMove s).LeadsTo (outBytes (rldByte b s.rld).2
      { s with inq := rest, inTaken := s.inTaken + 1, rld := (rldByte b s.rld).1 }) := by
  rw [opMove_rleDec op going, takeIn_data inq admitted]
  cases first : s.rld.first with
  | true =>
    rw [rldByte_first first, outBytes_nil]
    rfl
  | false =>
    rw [rldByte_later first]
    rfl

theorem rleDec_takes_end {s : State} {rest : List Beat} (op : s.cfg.op = .rleDec) (going : s.rld.ending = false)
    (inq : s.inq = .fin :: rest) : (opMove s).LeadsTo (rldInputEnd { s with inq := rest, inTaken := 0 }) := by
  rw [opMove_rleDec op going, takeIn_fin inq]
  rfl

/-- RLE.DEC on what is left of its message, from any state of RLD. -/
theorem rleDec_reaches {bs : List Byte} {rest : List Beat} {s : State} (h : UnderWay .rleDec s)
    (going : s.rld.ending = false) (inq : s.inq = message bs ++ rest)
    (admitted : s.inTaken + bs.length < Config.posLimit) :
    Reaches s (EndedDone s false (message (rldOutput bs s.rld)) rest) := by
  induction bs generalizing s with
  | nil =>
    refine h.reaches_of_move (rleDec_takes_end h.op_eq going inq) ?_
    have ended : UnderWay .rleDec (rldInputEnd { s with inq := rest, inTaken := 0 }) := { h with }
    have geom0 : zeroGeometry s = false := zeroGeometry_eq_false (by rw [h.op_eq]; rfl)
    refine ended.reaches_rldPadded rfl rfl ?_
    rw [← geom0]
    exact ended.rldPadded_endedDone
  | cons b bs ih =>
    rw [List.length_cons] at admitted
    refine h.reaches_of_out (rleDec_takes_byte h.op_eq going inq (by omega)) { h with } ?_
    refine Reaches.mono (ih { h with quiet := rfl } ?_ rfl ?_) fun t ended => ?_
    · exact (rldByte_ending b s.rld).trans going
    · exact (Nat.add_right_comm _ 1 _).trans_lt admitted
    · rw [rldOutput_cons, message_append]
      exact ended.after rfl

/-- Settles O52: START puts RLD at its start values with the total; from there the moves put out `RLE_DEC`. -/
theorem runsRleDec : Obligations.RunsRleDec := by
  intro f s bs rest serves idle inq admitted
  have run := rleDec_reaches (.acceptStart serves idle f) rfl inq admitted
  refine ⟨_, startOp_idle idle.1 f, run.mono fun t ended => ?_⟩
  have total : (totalOf s.totalHi s.totalLo).toNat = s.totalHi.toNat * 2 ^ 32 + s.totalLo.toNat := toNat_append_eq _ _
  rw [← total, ← rldOutput_init]
  exact ended.after (sent := []) (List.append_nil _).symm

end Sys2Proof.Machine
end

section
/-! PROOF. The match search (41_window_compressor.md R141 to R143) and the field packer (R146, R147): the common front is
the longest, the scan keeps the nearest of the longest matches, and a packed field as numbers. -/

namespace Sys2Proof.Machine

/-! ### The longest match -/

/-- The sequences agree on their common front. -/
theorem getElem?_eq_of_lt_commonPrefix {n k : Nat} {as bs : List Byte} (hk : k < commonPrefix n as bs) :
    as[k]? = bs[k]? := by
  induction n generalizing as bs k with
  | zero => simp [commonPrefix] at hk
  | succ n ih =>
    cases as with
    | nil => simp [commonPrefix] at hk
    | cons a as =>
      cases bs with
      | nil => simp [commonPrefix] at hk
      | cons b bs =>
        simp only [commonPrefix] at hk
        split at hk
        next same =>
          cases k with
          | zero => exact congrArg some same
          | succ k => exact (ih (Nat.lt_of_succ_lt_succ hk) : as[k]? = bs[k]?)
        next => cases hk

/-- The common front is no shorter than any front on which the sequences agree, up to the cap. -/
theorem le_commonPrefix {n m : Nat} {as bs : List Byte} (cap : m ≤ n) (left : m ≤ as.length) (right : m ≤ bs.length)
    (agree : ∀ k, k < m → as[k]? = bs[k]?) : m ≤ commonPrefix n as bs := by
  induction n generalizing as bs m with
  | zero => exact cap.trans (Nat.zero_le _)
  | succ n ih =>
    cases m with
    | zero => exact Nat.zero_le _
    | succ m =>
      obtain ⟨a, as, rfl⟩ := List.exists_cons_of_length_pos (Nat.zero_lt_of_lt left)
      obtain ⟨b, bs, rfl⟩ := List.exists_cons_of_length_pos (Nat.zero_lt_of_lt right)
      have same : a = b := Option.some.inj (agree 0 m.succ_pos)
      rw [commonPrefix, if_pos same]
      exact Nat.succ_le_succ (ih (Nat.le_of_succ_le_succ cap) (Nat.le_of_succ_le_succ left)
        (Nat.le_of_succ_le_succ right) fun k hk => agree (k + 1) (Nat.succ_lt_succ hk))

/-- The bytes of a match agree with those at its position (R142). -/
theorem getElem?_eq_of_lt_matchLen {d : List Byte} {i j k : Nat} (hk : k < matchLen d i j) : d[j + k]? = d[i + k]? := by
  simpa only [List.getElem?_drop] using getElem?_eq_of_lt_commonPrefix hk

/-- Settles O41: a match lies within the bounds and agrees, and the common front is the longest that does. -/
theorem matchLengthIsLargest : Obligations.MatchLengthIsLargest := by
  intro d i j earlier inside
  obtain ⟨cap, left⟩ := matchLen_le d i j
  refine ⟨⟨cap, by omega, fun k => getElem?_eq_of_lt_matchLen⟩, fun n ⟨cap, fits, agree⟩ => ?_⟩
  refine le_commonPrefix cap ?_ ?_ fun k hk => ?_
  · rw [List.length_drop]
    omega
  · rw [List.length_drop]
    omega
  · rw [List.getElem?_drop, List.getElem?_drop]
    exact agree k hk

/-! ### The nearest of the longest matches -/

/-- The offset and length `m` are those of the longest match among the candidates nearer than `c`, and of the longest
ones the nearest (R143). -/
structure NearestLongest (d : List Byte) (i c : Nat) (m : Nat × Nat) : Prop where
  longest : ∀ off, 1 ≤ off → off < c → matchLen d i (i - off) ≤ m.2
  unmatched : m.2 = 0 → m.1 = 0
  attained : 0 < m.2 → 1 ≤ m.1 ∧ m.1 < c ∧ matchLen d i (i - m.1) = m.2
  nearest : ∀ off, 1 ≤ off → off < m.1 → matchLen d i (i - off) < m.2

namespace NearestLongest

/-- Before the scan there is no candidate. -/
theorem start (d : List Byte) (i : Nat) : NearestLongest d i 1 (0, 0) where
  longest _ pos near := absurd near (Nat.not_lt_of_le pos)
  unmatched _ := rfl
  attained pos := absurd pos (lt_irrefl 0)
  nearest _ _ near := absurd near (Nat.not_lt_zero _)

/-- One candidate of the scan: a strictly longer match replaces the best. -/
theorem candidate {d : List Byte} {i c : Nat} {m : Nat × Nat} (h : NearestLongest d i c m) (pos : 1 ≤ c) :
    NearestLongest d i (c + 1) (if m.2 < matchLen d i (i - c) then (c, matchLen d i (i - c)) else m) := by
  split
  next longer =>
    have before (off : Nat) (hoff : 1 ≤ off) (near : off < c) : matchLen d i (i - off) < matchLen d i (i - c) :=
      (h.longest off hoff near).trans_lt longer
    refine ⟨fun off hoff near => ?_, fun none => ?_, fun _ => ⟨pos, c.lt_succ_self, rfl⟩, before⟩
    · rcases Nat.lt_succ_iff_lt_or_eq.1 near with near | rfl
      · exact (before off hoff near).le
      · exact le_rfl
    · exact absurd (longer.trans_eq none) (Nat.not_lt_zero _)
  next noLonger =>
    refine ⟨fun off hoff near => ?_, h.unmatched, fun found => ?_, h.nearest⟩
    · rcases Nat.lt_succ_iff_lt_or_eq.1 near with near | rfl
      · exact h.longest off hoff near
      · exact Nat.le_of_not_lt noLonger
    · obtain ⟨offset, near, length⟩ := h.attained found
      exact ⟨offset, near.trans c.lt_succ_self, length⟩

/-- The scan over `n` more candidates. -/
theorem searchFrom {d : List Byte} {i c : Nat} {m : Nat × Nat} (h : NearestLongest d i c m) (pos : 1 ≤ c) (n : Nat) :
    NearestLongest d i (c + n) (searchFrom d i n c m) := by
  induction n generalizing c m with
  | zero => exact h
  | succ n ih =>
    rw [← Nat.add_assoc, Nat.add_right_comm]
    exact ih (h.candidate pos) (Nat.le_succ_of_le pos)

end NearestLongest

/-- `FIND` scans the whole window (R141, R143). -/
theorem find_nearestLongest (d : List Byte) (i : Nat) :
    NearestLongest d i (1 + min i 8192) (find d i) :=
  (NearestLongest.start d i).searchFrom le_rfl _

/-- Settles O42: what the scan keeps, for the window. -/
theorem findIsLongestThenNearest : Obligations.FindIsLongestThenNearest := by
  intro d i
  have best := find_nearestLongest d i
  refine ⟨fun off pos inside => best.longest off pos (by omega), best.unmatched, fun found => ?_⟩
  obtain ⟨pos, inside, length⟩ := best.attained found
  exact ⟨pos, by omega, length, best.nearest⟩

/-! ### Packed fields -/

/-- The first byte of a two-byte offset as a number: key bit 6 and the high six bits (R146). -/
theorem offKeyByte_ofNat (x : Nat) : 0x40#8 ||| (BitVec.ofNat 8 x &&& 0x3F#8) = BitVec.ofNat 8 (64 + x % 64) := by
  rw [offKeyByte_eq]
  refine BitVec.eq_of_toNat_eq ?_
  simp only [toNat_append_eq, BitVec.extractLsb'_toNat, BitVec.toNat_ofNat, Nat.shiftRight_zero]
  omega

/-- The first byte of a two-byte length as a number: key bit 4 and the high four bits (R147). -/
theorem lenKeyByte_ofNat (x : Nat) : 0x10#8 ||| (BitVec.ofNat 8 x &&& 0x0F#8) = BitVec.ofNat 8 (16 + x % 16) := by
  rw [lenKeyByte_eq]
  refine BitVec.eq_of_toNat_eq ?_
  simp only [toNat_append_eq, BitVec.extractLsb'_toNat, BitVec.toNat_ofNat, Nat.shiftRight_zero]
  omega

/-- Settles O5: below its limit a field is one byte; from there on two, the first with the key bit. -/
theorem packedFieldBytes : Obligations.PackedFieldBytes := by
  refine ⟨fun _ => packOff_one, fun off two => ?_, fun _ => packLen_one, fun len two => ?_⟩
  · rw [packOff, if_neg (Nat.not_lt_of_le two), offKeyByte_ofNat]
  · rw [packLen, if_neg (Nat.not_lt_of_le two), lenKeyByte_ofNat]

end Sys2Proof.Machine
end

section
/-! PROOF. The size of a block (41_window_compressor.md R157): a token's payload is no longer than its advance, and every
group but the last advances by eight positions or more. -/

namespace Sys2Proof.Machine

/-! ### Tokens -/

theorem tokenAdvance_long {m : Nat × Nat} (long : Config.minMatch ≤ m.2) : tokenAdvance m = m.2 := if_pos long

theorem tokenAdvance_short {m : Nat × Nat} (short : ¬Config.minMatch ≤ m.2) : tokenAdvance m = 1 := if_neg short

/-- A back-reference has at most four bytes and replaces four or more; a literal is one byte for one (R144, R145). -/
theorem tokenBytes_length_le_advance {d : List Byte} {i : Nat} (hi : i < d.length) (m : Nat × Nat) :
    (tokenBytes d i m).length ≤ tokenAdvance m := by
  by_cases long : Config.minMatch ≤ m.2
  · rw [tokenAdvance_long long]
    exact (tokenBytes_length d i hi m).2.trans long
  · rw [tokenBytes_short hi long, tokenAdvance_short long]
    rfl

/-! ### Groups -/

theorem lzGroup_token_payload {d : List Byte} {i : Nat} (n t : Nat) (hi : i < d.length) :
    (lzGroup d (n + 1) t i).2.1 =
      tokenBytes d i (find d i) ++ (lzGroup d n (t + 1) (i + tokenAdvance (find d i))).2.1 := by
  rw [lzGroup_token n t hi]

theorem lzGroup_token_position {d : List Byte} {i : Nat} (n t : Nat) (hi : i < d.length) :
    (lzGroup d (n + 1) t i).2.2 = (lzGroup d n (t + 1) (i + tokenAdvance (find d i))).2.2 := by
  rw [lzGroup_token n t hi]

theorem lzGroup_position_le (d : List Byte) (n t : Nat) {i : Nat} (hi : i ≤ d.length) :
    (lzGroup d n t i).2.2 ≤ d.length := by
  induction n generalizing t i with
  | zero => exact hi
  | succ n ih =>
    rcases hi.lt_or_eq with hi | rfl
    · rw [lzGroup_token_position n t hi]
      exact ih _ (tokenAdvance_bounds d i hi).2
    · rw [lzGroup_done _ t le_rfl]

/-- The payload of a group is no longer than the input it stands for. -/
theorem lzGroup_payload_length_le (d : List Byte) (n t i : Nat) :
    i + (lzGroup d n t i).2.1.length ≤ (lzGroup d n t i).2.2 := by
  induction n generalizing t i with
  | zero => exact le_rfl
  | succ n ih =>
    rcases Nat.lt_or_ge i d.length with hi | done
    · have token := tokenBytes_length_le_advance hi (find d i)
      have tokens := ih (t + 1) (i + tokenAdvance (find d i))
      rw [lzGroup_token_payload n t hi, lzGroup_token_position n t hi, List.length_append]
      omega
    · rw [lzGroup_done _ t done]
      exact le_rfl

/-- A group of `n` tokens advances by `n` or more, or to the end of the input. -/
theorem lzGroup_position_full (d : List Byte) (n t i : Nat) :
    i + n ≤ (lzGroup d n t i).2.2 ∨ d.length ≤ (lzGroup d n t i).2.2 := by
  induction n generalizing t i with
  | zero => exact .inl le_rfl
  | succ n ih =>
    rcases Nat.lt_or_ge i d.length with hi | done
    · have advance := (tokenAdvance_bounds d i hi).1
      rw [lzGroup_token_position n t hi]
      exact (ih (t + 1) (i + tokenAdvance (find d i))).imp_left (by omega)
    · rw [lzGroup_done _ t done]
      exact .inr done

/-- No match is long enough for a back-reference. -/
def Matchless (d : List Byte) : Prop := ∀ i, i < d.length → (find d i).2 < Config.minMatch

/-- Without a match a group is literals, each advancing by one. -/
theorem Matchless.lzGroup_position {d : List Byte} (h : Matchless d) (n t : Nat) {i : Nat} (hi : i ≤ d.length) :
    (lzGroup d n t i).2.2 = min (i + n) d.length := by
  induction n generalizing t i with
  | zero => exact (Nat.min_eq_left hi).symm
  | succ n ih =>
    rcases hi.lt_or_eq with hi | rfl
    · rw [lzGroup_token_position n t hi, tokenAdvance_short (Nat.not_le_of_lt (h i hi)), ih _ hi,
        Nat.succ_add_eq_add_succ]
    · rw [lzGroup_done _ t le_rfl, Nat.min_eq_right (Nat.le_add_right _ _)]

/-- Without a match the payload of a group is as long as the input it stands for. -/
theorem Matchless.lzGroup_payload_length {d : List Byte} (h : Matchless d) (n t i : Nat) :
    i + (lzGroup d n t i).2.1.length = (lzGroup d n t i).2.2 := by
  induction n generalizing t i with
  | zero => rfl
  | succ n ih =>
    rcases Nat.lt_or_ge i d.length with hi | done
    · have literal := Nat.not_le_of_lt (h i hi)
      rw [lzGroup_token_payload n t hi, lzGroup_token_position n t hi, tokenAdvance_short literal,
        tokenBytes_short hi literal, List.singleton_append, List.length_cons, ← ih, Nat.add_right_comm, Nat.add_assoc]
    · rw [lzGroup_done _ t done]
      rfl

/-! ### Blocks -/

/-- At most a flag byte for each eight bytes of input beside them. -/
theorem lzGroups_length_le (d : List Byte) (fuel i : Nat) :
    (lzGroups d fuel i).length ≤ d.length - i + (d.length - i + 7) / 8 := by
  induction fuel generalizing i with
  | zero => exact Nat.zero_le _
  | succ fuel ih =>
    rcases Nat.lt_or_ge i d.length with hi | done
    · have eight : Config.group = 8 := rfl
      have payload := lzGroup_payload_length_le d Config.group 0 i
      have inside := lzGroup_position_le d Config.group 0 hi.le
      have full := lzGroup_position_full d Config.group 0 i
      have groups := ih (lzGroup d Config.group 0 i).2.2
      rw [lzGroups_group fuel hi, List.length_cons, List.length_append]
      omega
    · rw [lzGroups_done _ done]
      exact Nat.zero_le _

/-- Without a match the bound is reached. -/
theorem Matchless.lzGroups_length {d : List Byte} (h : Matchless d) {fuel i : Nat} (enough : d.length ≤ i + fuel) :
    (lzGroups d fuel i).length = d.length - i + (d.length - i + 7) / 8 := by
  induction fuel generalizing i with
  | zero =>
    rw [lzGroups, List.length_nil]
    omega
  | succ fuel ih =>
    rcases Nat.lt_or_ge i d.length with hi | done
    · have eight : Config.group = 8 := rfl
      have payload := h.lzGroup_payload_length Config.group 0 i
      have position := h.lzGroup_position Config.group 0 hi.le
      rw [lzGroups_group fuel hi, List.length_cons, List.length_append, ih (by omega)]
      omega
    · rw [lzGroups_done _ done, List.length_nil]
      omega

/-- Settles O45: a block is the groups from position 0 on. -/
theorem compressedSizeBound : Obligations.CompressedSizeBound :=
  ⟨fun d => lzGroups_length_le d d.length 0,
    fun d (matchless : Matchless d) => matchless.lzGroups_length (Nat.le_add_left _ _), rfl⟩

end Sys2Proof.Machine
end

section
/-! PROOF. The window round trip (41_window_compressor.md R156): `lzTokens` follows `lzGroup` token by token and
`lzGroups` group by group, its output being the input up to the position of the compressor. -/

namespace Sys2Proof.Machine

/-! ### A copy continues the input -/

/-- Where the input repeats itself at a distance for `n` bytes, the copy from that distance appends those bytes, also
where it reads what it has just appended (42_window_decompressor.md R175, R182). -/
theorem copyLoop_take {d : List Byte} {src i : Nat} (n : Nat) (before : src < i)
    (inside : i + n ≤ d.length) (periodic : ∀ k, k < n → d[src + k]? = d[i + k]?) :
    copyLoop n src (d.take i) = d.take (i + n) := by
  induction n generalizing src i with
  | zero => rfl
  | succ n ih =>
    have produced : (d.take i).length = i := List.length_take_of_le (by omega)
    have byte : ((d.take i).drop src).take 1 = (d.drop i).take 1 := by
      have source : ((d.take i).drop src).take 1 = (d.drop src).take 1 := by
        rw [List.drop_take, List.take_take, Nat.min_eq_left (by omega)]
      rw [source, List.take_one, List.take_one, List.head?_drop, List.head?_drop]
      exact congrArg Option.toList (periodic 0 n.succ_pos)
    have rest : copyLoop n ↑(src + 1) (d.take (i + 1)) = d.take (i + 1 + n) :=
      ih (Nat.succ_lt_succ before) (by omega) fun k hk => by
        simpa only [Nat.add_assoc, Nat.add_comm 1] using periodic (k + 1) (Nat.succ_lt_succ hk)
    rw [copyLoop, if_neg (by omega), Int.toNat_natCast, byte, ← List.take_add, ← Int.natCast_succ, rest,
      Nat.add_right_comm, Nat.add_assoc]

/-- A back-reference of the compressor gives back the input it stands for (R141 to R144). -/
theorem copyRef_find {d : List Byte} {i : Nat} (hi : i < d.length) (long : Config.minMatch ≤ (find d i).2) :
    copyRef (find d i).1 (find d i).2 (d.take i) = d.take (i + (find d i).2) := by
  have found : 0 < (find d i).2 := Nat.lt_of_lt_of_le (by decide) long
  obtain ⟨pos, reach, attained⟩ := (find_nearestLongest d i).attained found
  obtain ⟨-, -, inside⟩ := find_le d i
  have source : ((d.take i).length : Int) - (find d i).1 = ((i - (find d i).1 : Nat) : Int) := by
    rw [List.length_take_of_le hi.le]
    omega
  rw [copyRef, source]
  exact copyLoop_take _ (by omega) (by omega) fun k hk => getElem?_eq_of_lt_matchLen (attained.symm ▸ hk)

/-! ### Tokens -/

/-- Where the flag bit tells the kind of the token, `LZ_DECOMP` gives back the input that the token at its position
stands for. -/
theorem lzTokens_token {d : List Byte} {t i : Nat} {flags : BitVec 8} (ht : t ≠ Config.group) (hi : i < d.length)
    (kind : flags.getLsbD t = decide (Config.minMatch ≤ (find d i).2)) (fuel : Nat) (rest : List Byte) :
    lzTokens (fuel + 1) t flags (tokenBytes d i (find d i) ++ rest) (d.take i) =
      lzTokens fuel (t + 1) flags rest (d.take (i + tokenAdvance (find d i))) := by
  by_cases long : Config.minMatch ≤ (find d i).2
  · obtain ⟨offset, length, -⟩ := find_le d i
    have offsetFits : (find d i).1 < 2 ^ 14 := (offset.trans (Nat.min_le_right _ _)).trans_lt (by decide)
    have lengthFits : (find d i).2 < 2 ^ 12 := length.trans_lt (by decide)
    obtain ⟨r, hdecode, -, hoff, hlen⟩ := decode_pack offsetFits lengthFits rest
    rw [← tokenBytes_long (d := d) (i := i) long] at hdecode
    obtain ⟨b, bs, hbytes⟩ :=
      List.exists_cons_of_ne_nil (List.append_ne_nil_of_left_ne_nil (tokenBytes_ne_nil hi (find d i)) rest)
    rw [hbytes] at hdecode ⊢
    rw [lzTokens, if_neg ht, if_pos (by rw [kind, decide_eq_true long]), hdecode, tokenAdvance_long long]
    simp only [hoff, hlen, copyRef_find hi long]
  · rw [tokenBytes_short hi long, List.singleton_append, lzTokens, if_neg ht, if_neg (by simp [kind, long]),
      tokenAdvance_short long, ← List.take_append_getElem hi]

/-! ### Groups -/

/-- The flag bit of a group's first token tells its kind (R148). -/
theorem lzGroup_flag_token {d : List Byte} {t i : Nat} (n : Nat) (ht : t < Config.group) (hi : i < d.length) :
    (lzGroup d (n + 1) t i).1.getLsbD t = decide (Config.minMatch ≤ (find d i).2) := by
  rw [lzGroup_token n t hi, BitVec.getLsbD_or, tokenFlag_getLsbD _ ht, lzGroup_flag_low d n _ t.lt_succ_self ht,
    decide_eq_true rfl, Bool.true_and, Bool.or_false]

/-- The later flag bits of a group are those of its later tokens (R148). -/
theorem lzGroup_flag_later {d : List Byte} {t i k : Nat} (n : Nat) (hi : i < d.length) (later : t < k)
    (hk : k < Config.group) :
    (lzGroup d (n + 1) t i).1.getLsbD k = (lzGroup d n (t + 1) (i + tokenAdvance (find d i))).1.getLsbD k := by
  rw [lzGroup_token n t hi, BitVec.getLsbD_or, tokenFlag_getLsbD _ hk, decide_eq_false later.ne, Bool.false_and,
    Bool.false_or]

/-- These bytes, read where a FLAG is expected and the input before position `i` has been produced, give the whole
input. -/
def Restores (d bs : List Byte) (i : Nat) : Prop :=
  ∀ (fuel : Nat) (flags : BitVec 8), bs.length ≤ fuel → lzTokens fuel Config.group flags bs (d.take i) = d

theorem lzTokens_nil (fuel t : Nat) (flags : BitVec 8) (out : List Byte) : lzTokens fuel t flags [] out = out := by
  cases fuel <;> rfl

theorem restores_nil {d : List Byte} {i : Nat} (done : d.length ≤ i) : Restores d [] i := fun fuel flags _ =>
  (lzTokens_nil fuel _ flags _).trans (List.take_of_length_le done)

/-- The tokens of a group, read under flag bits that are the group's, and what follows, give the input. -/
theorem lzTokens_group (d : List Byte) {n t fuel i : Nat} {flags : BitVec 8} {more : List Byte}
    (tokens : t + n = Config.group)
    (bits : ∀ k, t ≤ k → k < Config.group → flags.getLsbD k = (lzGroup d n t i).1.getLsbD k)
    (ended : d.length ≤ (lzGroup d n t i).2.2 → more = []) (after : Restores d more (lzGroup d n t i).2.2)
    (enough : ((lzGroup d n t i).2.1 ++ more).length ≤ fuel) :
    lzTokens fuel t flags ((lzGroup d n t i).2.1 ++ more) (d.take i) = d := by
  induction n generalizing t i fuel with
  | zero =>
    obtain rfl : t = Config.group := tokens
    exact after fuel flags enough
  | succ n ih =>
    have inGroup : t < Config.group := by omega
    rcases Nat.lt_or_ge i d.length with hi | done
    · have kind := (bits t le_rfl inGroup).trans (lzGroup_flag_token n inGroup hi)
      have later (k : Nat) (low : t + 1 ≤ k) (high : k < Config.group) :=
        (bits k (Nat.le_of_succ_le low) high).trans (lzGroup_flag_later n hi low high)
      have nonempty := (tokenBytes_length d i hi (find d i)).1
      rw [lzGroup_token_position n t hi] at ended after
      rw [lzGroup_token_payload n t hi, List.append_assoc] at enough ⊢
      rw [List.length_append] at enough
      obtain ⟨fuel, rfl⟩ := Nat.exists_eq_succ_of_ne_zero (by omega : fuel ≠ 0)
      rw [lzTokens_token inGroup.ne hi kind]
      exact ih (by omega) later ended after (by omega)
    · rw [lzGroup_done _ t done] at ended ⊢
      rw [ended done]
      exact (lzTokens_nil fuel t flags _).trans (List.take_of_length_le done)

/-! ### Blocks -/

/-- Every rest of a block that the compressor makes restores the rest of the input. -/
theorem restores_lzGroups (d : List Byte) {fuel i : Nat} (all : d.length ≤ i + fuel) :
    Restores d (lzGroups d fuel i) i := by
  induction fuel generalizing i with
  | zero => exact restores_nil all
  | succ fuel ih =>
    rcases Nat.lt_or_ge i d.length with hi | done
    · have advances : i < (lzGroup d Config.group 0 i).2.2 := lt_lzGroup_position 7 0 hi
      intro fuel' flags enough
      rw [lzGroups_group fuel hi] at enough ⊢
      obtain ⟨fuel', rfl⟩ := Nat.exists_eq_succ_of_ne_zero (Nat.ne_zero_of_lt enough)
      rw [lzTokens, if_pos rfl]
      exact lzTokens_group d rfl (fun _ _ _ => rfl) (lzGroups_done fuel) (ih (by omega))
        (Nat.le_of_succ_le_succ enough)
    · rw [lzGroups_done _ done]
      exact restores_nil done

/-- Settles O43: a block is the groups from position 0 on, and nothing has been produced before it. -/
theorem windowRoundTrip : Obligations.WindowRoundTrip := fun d =>
  restores_lzGroups d (Nat.le_add_left _ _) _ _ le_rfl

end Sys2Proof.Machine
end

section
/-! PROOF. The moves of LZC (41_window_compressor.md R152) as equations, and that the operations that compress wait while
the lookahead is short (R152, 70 R265). -/

namespace Sys2Proof.Machine

/-! ### LZC's moves -/

theorem lzcMove_close {s : State} (full : lzcGroupFull s.lzc = true) (next : Move) :
    lzcMove s next = .unit (lzcGroupClose s) := if_pos full

theorem lzcMove_token {s : State} (room : lzcGroupFull s.lzc = false) (ready : lzcReady s.lzc = true) (next : Move) :
    lzcMove s next = .unit (lzcToken s) := by
  rw [lzcMove, if_neg (ne_true_of_eq_false room), if_pos ready]

theorem lzcMove_finish {s : State} (starved : LzcStarved s.lzc) (complete : lzcComplete s.lzc = true) (next : Move) :
    lzcMove s next = .unit (.next (lzcFinish s)) := by
  rw [lzcMove, if_neg (ne_true_of_eq_false starved.1), if_neg (ne_true_of_eq_false starved.2), if_pos complete]

theorem lzcMove_input {s : State} (starved : LzcStarved s.lzc) (incomplete : lzcComplete s.lzc = false)
    (next : Move) : lzcMove s next = next := by
  rw [lzcMove, if_neg (ne_true_of_eq_false starved.1), if_neg (ne_true_of_eq_false starved.2),
    if_neg (ne_true_of_eq_false incomplete)]

/-! ### Input to LZC -/

/-- LZC compresses: LZ.COMP runs, or IMG.ENC or VID.ENC is in BODY (41 R140, 43 R190, 44 R201). -/
def Compressing (s : State) : Prop :=
  s.cfg.op = .lzComp ∨ ((s.cfg.op = .imgEnc ∨ s.cfg.op = .vidEnc) ∧ s.fra.phase = .body)

/-- How an operation that compresses takes the beat on IN: LZ.COMP as a byte, the containers as a pixel. -/
def compressorInput (s : State) : Move :=
  if s.cfg.op = .lzComp then takeIn s (fun b s => .unit (lzcStore b s)) (fun s => .unit (.next (lzcInputEnd s)))
  else pixelMove s

theorem opMove_compressing {s : State} (h : Compressing s) : opMove s = lzcMove s (compressorInput s) := by
  rcases h with op | ⟨op | op, body⟩
  · rw [opMove, op, compressorInput, if_pos op]
    rfl
  · rw [opMove, op, compressorInput, if_neg (by simp [op])]
    simp only [imgEncMove, body]
  · rw [opMove, op, compressorInput, if_neg (by simp [op])]
    simp only [vidEncMove, body]

/-- With nothing on IN the operation waits for a beat. -/
theorem compressorInput_nil {s : State} (inq : s.inq = []) : compressorInput s = .wait := by
  simp only [compressorInput, pixelMove, takeIn, inq, ite_self]

/-- The operation takes an end marker. -/
theorem compressorInput_fin {s : State} {rest : List Beat} (inq : s.inq = .fin :: rest) :
    (compressorInput s).waits = false := by
  unfold compressorInput
  split
  · rw [takeIn_fin inq]
    rfl
  · rw [pixelMove, takeIn_fin inq]
    rfl

theorem lzcStoreAll_lzc {bs : List Byte} {s t : State} (store : lzcStoreAll bs s = .next t) :
    t.lzc = { s.lzc with nIn := t.lzc.nIn } := by
  obtain ⟨rfl, -⟩ := lzcStoreAll_next store
  rfl

/-- Taking input changes LZC's count of the bytes and whether they have ended, and nothing else of it (R152). -/
theorem compressorInput_lzc {s t : State} (h : (compressorInput s).LeadsTo t) :
    t.lzc = { s.lzc with nIn := t.lzc.nIn, eoi := t.lzc.eoi } := by
  unfold compressorInput at h
  split at h
  · rcases takeIn_leadsTo h with ⟨b, rest, -, store⟩ | ⟨rest, -, ended⟩
    · rw [lzcStoreAll_lzc (bs := [b]) (andThen_eq_next.2 ⟨t, store, rfl⟩)]
    · cases ended
      rfl
  · rcases takeIn_leadsTo h with ⟨b, rest, -, store⟩ | ⟨rest, -, stored⟩
    · rw [lzcStoreAll_lzc store]
    · obtain ⟨u, store, ended⟩ := andThen_eq_next.1 stored
      cases ended
      exact congrArg (fun l : Lzc => { l with eoi := true }) (lzcStoreAll_lzc store)

/-! ### Lookahead -/

/-- More of the block has to come before MATCHLEN can read all it may (R152). -/
def ShortOfLookahead (l : Lzc) : Prop := l.eoi = false ∧ l.nIn - l.i < Config.maxMatch

namespace ShortOfLookahead

theorem not_ready {l : Lzc} (h : ShortOfLookahead l) : lzcReady l = false := by
  obtain ⟨going, short⟩ := h
  simp [lzcReady, going, short]

theorem incomplete {l : Lzc} (h : ShortOfLookahead l) : lzcComplete l = false := by simp [lzcComplete, h.1]

theorem groupFull {l : Lzc} (h : ShortOfLookahead l) : lzcGroupFull l = decide (l.t = Config.group) := by
  simp [lzcGroupFull, h.1]

end ShortOfLookahead

/-- Closing a group changes its registers alone (R152). -/
theorem lzcGroupReset_lzc_of_lzcOut {s u : State} {bs : List Byte} (out : lzcOut bs s = .next u) :
    (lzcGroupReset u).lzc = { s.lzc with flag := 0, t := 0, glen := 0 } := by
  have kept : u.lzc = s.lzc := by
    rcases lzcOut_next out with ⟨-, fits⟩ | ⟨-, rfl⟩
    · obtain ⟨rfl, -⟩ := pbufAppend_next fits
      rfl
    · rfl
  rw [lzcGroupReset_lzc, kept]

/-- No token is made: the position stays, and the tokens of the group stay or a group of eight closes. -/
def NoToken (s t : State) : Prop :=
  t.lzc.i = s.lzc.i ∧ (t.lzc.t = s.lzc.t ∨ (s.lzc.t = 8 ∧ t.lzc.t = 0 ∧ t.lzc.nIn = s.lzc.nIn))

theorem noToken_of_opMove {s t : State} (compressing : Compressing s) (short : ShortOfLookahead s.lzc)
    (move : (opMove s).LeadsTo t) : NoToken s t := by
  rw [opMove_compressing compressing] at move
  rcases lzcMove_leadsTo move with own | ⟨-, input⟩
  · cases own with
    | close full _ out =>
      rw [short.groupFull] at full
      rw [NoToken, lzcGroupReset_lzc_of_lzcOut out]
      exact ⟨rfl, .inr ⟨of_decide_eq_true full, rfl, rfl⟩⟩
    | token _ ready => exact absurd (short.not_ready.symm.trans ready) (by decide)
    | finish complete => exact absurd (short.incomplete.symm.trans complete) (by decide)
  · rw [NoToken, compressorInput_lzc input]
    exact ⟨rfl, .inl rfl⟩

/-- With room in the group, the next move of the operation is to take the beat on IN. -/
theorem opMove_of_short {s : State} (compressing : Compressing s) (short : ShortOfLookahead s.lzc)
    (room : s.lzc.t < Config.group) : opMove s = compressorInput s := by
  have starved : LzcStarved s.lzc := ⟨short.groupFull.trans (decide_eq_false room.ne), short.not_ready⟩
  rw [opMove_compressing compressing, lzcMove_input starved short.incomplete]

theorem inReady_of_short {s : State} (compressing : Compressing s) (short : ShortOfLookahead s.lzc)
    (room : s.lzc.t < Config.group) (busy : s.status.busy = true) (quiet : s.outPend = []) : inReady s = true := by
  have facing (q : List Beat) : opMove { s with inq := q } = compressorInput { s with inq := q } :=
    opMove_of_short (s := { s with inq := q }) compressing short room
  rw [inReady, facing, facing, compressorInput_nil rfl, compressorInput_fin rfl, busy, quiet]
  rfl

/-- Settles O47: without lookahead neither a token nor the finish can fire, so a move is a delivery, the close of a full
group, or taking a beat. -/
theorem compressorWaitsForLookahead : Obligations.CompressorWaitsForLookahead := by
  intro s (compressing : Compressing s) going lookahead
  have short : ShortOfLookahead s.lzc := ⟨going, lookahead⟩
  refine ⟨fun t move => ?_, fun busy quiet inq room => ?_⟩
  · rcases bfcMove_next_cases move with ⟨b, rest, -, rfl⟩ | ⟨-, own⟩
    · cases b <;> exact ⟨rfl, .inl rfl⟩
    · exact noToken_of_opMove compressing short own
  · have ready := inReady_of_short compressing short room busy quiet
    have stuck := bfcMove_starved ready inq
    exact ⟨ready, stuck, fun plan => step_of_stuck plan stuck⟩

end Sys2Proof.Machine
end

section
/-! PROOF. The step form of the compressor (41_window_compressor.md R152): what LZC still puts out, from any state of a
group, is kept by every move but for the bytes the move puts out; so `LZ.COMP` computes `LZ_COMP` (R151). -/

namespace Sys2Proof.Machine

/-! ### What LZC still puts out -/

/-- As many groups as are needed give the same, whatever their bound (R145, R151). -/
theorem lzGroups_congr_fuel {d : List Byte} {fuel fuel' i : Nat} (enough : d.length ≤ i + fuel)
    (enough' : d.length ≤ i + fuel') : lzGroups d fuel i = lzGroups d fuel' i := by
  induction fuel generalizing fuel' i with
  | zero =>
    have done : d.length ≤ i := enough
    rw [lzGroups_done _ done, lzGroups_done _ done]
  | succ fuel ih =>
    rcases Nat.lt_or_ge i d.length with hi | done
    · obtain ⟨fuel', rfl⟩ := Nat.exists_eq_succ_of_ne_zero (by omega : fuel' ≠ 0)
      have advances : i < (lzGroup d Config.group 0 i).2.2 := lt_lzGroup_position 7 0 hi
      rw [lzGroups_group fuel hi, lzGroups_group fuel' hi, ih (fuel' := fuel') (by omega) (by omega)]
    · rw [lzGroups_done _ done, lzGroups_done _ done]

/-- What LZC still puts out of the block of `d`, with `g` in GBUF: the group that is open, if one is or is to come, with
the tokens it will have, and the groups after it (R151, R152). -/
def lzcRest (d g : List Byte) (l : Lzc) : List Byte :=
  if l.t = 0 ∧ d.length ≤ l.i then []
  else
    (l.flag ||| (lzGroup d (Config.group - l.t) l.t l.i).1) ::
      (g ++ (lzGroup d (Config.group - l.t) l.t l.i).2.1 ++
        lzGroups d d.length (lzGroup d (Config.group - l.t) l.t l.i).2.2)

/-- With no group open it is the groups from the position on. -/
theorem lzcRest_fresh {d : List Byte} {l : Lzc} (tokens : l.t = 0) (flag : l.flag = 0#8) :
    lzcRest d [] l = lzGroups d d.length l.i := by
  rw [lzcRest, tokens, flag]
  rcases Nat.lt_or_ge l.i d.length with hi | done
  · have advances : l.i < (lzGroup d Config.group 0 l.i).2.2 := lt_lzGroup_position 7 0 hi
    obtain ⟨n, length⟩ := Nat.exists_eq_succ_of_ne_zero (Nat.ne_zero_of_lt hi)
    rw [if_neg (by simp [hi]), BitVec.zero_or, List.nil_append, Nat.sub_zero,
      lzGroups_congr_fuel (fuel := d.length) (fuel' := n) (by omega) (by omega), length]
    exact (lzGroups_group n hi).symm
  · rw [if_pos ⟨rfl, done⟩, lzGroups_done _ done]

/-- A token goes into GBUF and the flag byte, and what LZC puts out is as before (R148, R151). -/
theorem lzcRest_token {d g : List Byte} {l l' : Lzc} (hi : l.i < d.length) (room : l.t < Config.group)
    (tokens : l'.t = l.t + 1) (flag : l'.flag = l.flag ||| tokenFlag l.t (find d l.i))
    (position : l'.i = l.i + tokenAdvance (find d l.i)) :
    lzcRest d (g ++ tokenBytes d l.i (find d l.i)) l' = lzcRest d g l := by
  have left : Config.group - l.t = Config.group - (l.t + 1) + 1 := by omega
  rw [lzcRest, lzcRest, tokens, flag, position, left, lzGroup_token _ _ hi, if_neg (by simp), if_neg (by omega),
    BitVec.or_assoc, List.append_assoc g]

/-- A group that closes is put out, its FLAG byte first (R148, R149). -/
theorem lzcRest_close {d g : List Byte} {l l' : Lzc} (closes : l.t = Config.group ∨ (0 < l.t ∧ d.length ≤ l.i))
    (tokens : l'.t = 0) (flag : l'.flag = 0#8) (position : l'.i = l.i) :
    lzcRest d g l = l.flag :: (g ++ lzcRest d [] l') := by
  have opened : ¬(l.t = 0 ∧ d.length ≤ l.i) := by
    have pos : Config.group ≠ 0 := by decide
    omega
  have last : lzGroup d (Config.group - l.t) l.t l.i = (0#8, [], l.i) := by
    rcases closes with full | ⟨-, done⟩
    · rw [full, Nat.sub_self]
      rfl
    · exact lzGroup_done _ _ done
  rw [lzcRest_fresh tokens flag, position, lzcRest, if_neg opened, last, BitVec.or_zero, List.append_nil]

/-! ### LZC and its buffers -/

/-- LZC stands inside the block of `d`: HBUF holds what has been received of it, GBUF the payload `g` of the group, and
the end of input has been seen only where all has been received (R60, R152). -/
structure LzcHolds (d g : List Byte) (s : State) : Prop where
  hbuf : s.hbuf = Memory.ofBytes (d.take s.lzc.nIn)
  nIn_le : s.lzc.nIn ≤ d.length
  i_le : s.lzc.i ≤ s.lzc.nIn
  gbuf : s.gbuf = Memory.ofBytes g
  glen : s.lzc.glen = g.length
  tokens : s.lzc.t ≤ Config.group
  ended : s.lzc.eoi = true → s.lzc.nIn = d.length

/-- Where every byte that MATCHLEN can read is present, the match lengths are those of the whole block (R142, R152). -/
theorem matchLen_take {d : List Byte} {n i j : Nat} (earlier : j ≤ i)
    (present : d.length ≤ n ∨ i + Config.maxMatch ≤ n) : matchLen (d.take n) i j = matchLen d i j := by
  rcases present with all | ahead
  · rw [List.take_of_length_le all]
  · exact matchLen_congr earlier fun a _ high => List.getElem?_take_of_lt (high.trans_le ahead)

/-- Where every byte that MATCHLEN can read is present, the search finds what it finds in the whole block (R143,
R152). -/
theorem find_take {d : List Byte} {n i : Nat} (present : d.length ≤ n ∨ i + Config.maxMatch ≤ n) :
    find (d.take n) i = find d i :=
  searchFrom_congr _ fun _ _ _ => matchLen_take (Nat.sub_le _ _) present

/-- Where every byte that MATCHLEN can read is present, the token step is that on the whole block (R152). -/
theorem lzcTokenOn_take {d : List Byte} {n : Nat} {s : State} (received : s.lzc.i < n)
    (present : d.length ≤ n ∨ s.lzc.i + Config.maxMatch ≤ n) : lzcTokenOn (d.take n) s = lzcTokenOn d s := by
  have bytes (m : Nat × Nat) : tokenBytes (d.take n) s.lzc.i m = tokenBytes d s.lzc.i m :=
    tokenBytes_congr m (List.getElem?_take_of_lt received)
  simp only [lzcTokenOn, find_take present, bytes, matchLen_take (Nat.sub_le s.lzc.i Config.windowSize) present]

namespace LzcHolds

theorem read_hbuf {d g : List Byte} {s : State} (h : LzcHolds d g s) :
    Memory.bytes s.hbuf s.lzc.nIn = some (d.take s.lzc.nIn) := by
  have read := Memory.bytes_ofBytes (d.take s.lzc.nIn)
  rwa [List.length_take_of_le h.nIn_le, ← h.hbuf] at read

theorem read_gbuf {d g : List Byte} {s : State} (h : LzcHolds d g s) : Memory.bytes s.gbuf s.lzc.glen = some g := by
  rw [h.gbuf, h.glen, Memory.bytes_ofBytes]

/-- Storing the next byte of the block. -/
theorem store {d g : List Byte} {s : State} (h : LzcHolds d g s) (going : s.lzc.eoi = false)
    (more : s.lzc.nIn < d.length) :
    LzcHolds d g
      { s with hbuf := Memory.write s.hbuf s.lzc.nIn d[s.lzc.nIn], lzc := { s.lzc with nIn := s.lzc.nIn + 1 } } where
  hbuf := by
    have written := Memory.write_ofBytes (d.take s.lzc.nIn) d[s.lzc.nIn]
    rwa [List.length_take_of_le h.nIn_le, ← h.hbuf, List.take_append_getElem more] at written
  nIn_le := more
  i_le := h.i_le.trans (Nat.le_succ _)
  gbuf := h.gbuf
  glen := h.glen
  tokens := h.tokens
  ended no := absurd (going.symm.trans no) (by decide)

theorem inputEnd {d g : List Byte} {s : State} (h : LzcHolds d g s) (all : s.lzc.nIn = d.length) :
    LzcHolds d g (lzcInputEnd s) :=
  { h with ended := fun _ => all }

/-- When a token step may fire, the position is inside the bytes received, and every byte that MATCHLEN can read is
present (R152). -/
theorem present {d g : List Byte} {s : State} (h : LzcHolds d g s) (ready : lzcReady s.lzc = true) :
    s.lzc.i < s.lzc.nIn ∧ (d.length ≤ s.lzc.nIn ∨ s.lzc.i + Config.maxMatch ≤ s.lzc.nIn) := by
  simp only [lzcReady, Bool.and_eq_true, Bool.or_eq_true, decide_eq_true_eq] at ready
  obtain ⟨inside, present⟩ := ready
  exact ⟨inside, present.imp (fun eoi => (h.ended eoi).ge) (by omega)⟩

/-- The token step makes the token of the whole block. -/
theorem lzcToken_eq {d g : List Byte} {s : State} (h : LzcHolds d g s) (ready : lzcReady s.lzc = true) :
    lzcToken s = .next (lzcTokenOn d s) := by
  obtain ⟨inside, present⟩ := h.present ready
  rw [lzcToken, h.read_hbuf, ← lzcTokenOn_take inside present]

/-- The payload of the token goes into GBUF, and the position stays within the bytes received (R145, R152). -/
theorem token {d g : List Byte} {s : State} (h : LzcHolds d g s) (ready : lzcReady s.lzc = true)
    (room : s.lzc.t < Config.group) :
    LzcHolds d (g ++ tokenBytes d s.lzc.i (find d s.lzc.i)) (lzcTokenOn d s) where
  hbuf := h.hbuf
  nIn_le := h.nIn_le
  i_le := by
    obtain ⟨inside, present⟩ := h.present ready
    have length := List.length_take_of_le h.nIn_le
    have bounds := tokenAdvance_bounds (d.take s.lzc.nIn) s.lzc.i (inside.trans_eq length.symm)
    rw [find_take present, length] at bounds
    exact bounds.2
  gbuf := by
    rw [← Memory.writeAll_ofBytes, ← h.gbuf, ← h.glen]
    rfl
  glen := by
    rw [List.length_append, ← h.glen]
    rfl
  tokens := room
  ended := h.ended

theorem groupReset {d g : List Byte} {s : State} (h : LzcHolds d g s) : LzcHolds d [] (lzcGroupReset s) :=
  { h with gbuf := rfl, glen := rfl, tokens := Nat.zero_le _ }

/-- A group closes where it is full, or the block is done and it has tokens (R152). -/
theorem closes {d g : List Byte} {s : State} (h : LzcHolds d g s) (full : lzcGroupFull s.lzc = true) :
    s.lzc.t = Config.group ∨ (0 < s.lzc.t ∧ d.length ≤ s.lzc.i) := by
  simp only [lzcGroupFull, Bool.or_eq_true, Bool.and_eq_true, decide_eq_true_eq] at full
  rcases full with full | ⟨⟨some, eoi⟩, done⟩
  · exact .inl full
  · exact .inr ⟨some, ((h.ended eoi).symm.trans done.symm).le⟩

theorem room {d g : List Byte} {s : State} (h : LzcHolds d g s) (notFull : lzcGroupFull s.lzc = false) :
    s.lzc.t < Config.group := by
  simp only [lzcGroupFull, Bool.or_eq_false_iff, decide_eq_false_iff_not] at notFull
  exact lt_of_le_of_ne h.tokens notFull.1

/-- Where LZC is starved and the end of input has been seen, the block is complete, and nothing is left to put out. -/
theorem complete_of_eoi {d g : List Byte} {s : State} (h : LzcHolds d g s) (starved : LzcStarved s.lzc)
    (eoi : s.lzc.eoi = true) : lzcComplete s.lzc = true ∧ lzcRest d g s.lzc = [] := by
  obtain ⟨notFull, notReady⟩ := starved
  have all := h.ended eoi
  have position := h.i_le
  simp only [lzcReady, eoi, Bool.true_or, Bool.and_true, decide_eq_false_iff_not] at notReady
  have done : s.lzc.i = s.lzc.nIn := by omega
  simp only [lzcGroupFull, eoi, done, decide_true, Bool.and_true, Bool.or_eq_false_iff,
    decide_eq_false_iff_not] at notFull
  have empty : s.lzc.t = 0 := by omega
  exact ⟨by simp [lzcComplete, eoi, done, empty], if_pos ⟨empty, by omega⟩⟩

end LzcHolds

/-! ### LZ.COMP -/

theorem lzcOut_outBytes {bs : List Byte} {s : State} (op : s.cfg.op ≠ .vidEnc) :
    lzcOut bs s = .next (outBytes bs s) := if_neg op

/-- LZ.COMP runs on the message of `d`, of which `lzc.nIn` bytes have been taken; `rest` stands on IN after it. -/
structure LzCompAt (d : List Byte) (rest : List Beat) (g : List Byte) (s : State) : Prop
    extends UnderWay .lzComp s, LzcHolds d g s where
  inq : s.inq = if s.lzc.eoi then rest else message (d.drop s.lzc.nIn) ++ rest
  admitted : s.inTaken + (d.length - s.lzc.nIn) < Config.posLimit
  fits : d.length < Config.posLimit

/-- The moves that LZC still has to make, at most: beats to take, tokens to make, groups to close. -/
def lzcWork (d : List Byte) (l : Lzc) : Nat :=
  (d.length - l.nIn) + (!l.eoi).toNat + 2 * (d.length - l.i) + l.t

/-- A group closes, a token is made, or LZC is starved (R152). -/
theorem lzc_choice (l : Lzc) :
    lzcGroupFull l = true ∨ (lzcGroupFull l = false ∧ lzcReady l = true) ∨ LzcStarved l := by
  rw [LzcStarved]
  cases lzcGroupFull l <;> cases lzcReady l <;> decide

/-- The state in which LZ.COMP has taken a byte and stored it. -/
def lzcByteTaken (b : Byte) (q : List Beat) (s : State) : State :=
  { s with
    inq := q, inTaken := s.inTaken + 1, hbuf := Memory.write s.hbuf s.lzc.nIn b
    lzc := { s.lzc with nIn := s.lzc.nIn + 1 } }

namespace LzCompAt

section
variable {d g : List Byte} {rest : List Beat} {s : State} (h : LzCompAt d rest g s)
include h

theorem opMove_eq :
    opMove s = lzcMove s (takeIn s (fun b s => .unit (lzcStore b s)) (fun s => .unit (.next (lzcInputEnd s)))) := by
  rw [opMove_compressing (.inl h.op_eq), compressorInput, if_pos h.op_eq]

theorem close_move (full : lzcGroupFull s.lzc = true) :
    (opMove s).LeadsTo (outBytes (s.lzc.flag :: g) (lzcGroupReset s)) := by
  rw [h.opMove_eq, lzcMove_close full, lzcGroupClose, h.read_gbuf]
  simp only [lzcOut_outBytes (s := s) (by simp [h.op_eq]), andThen_next]
  rfl

theorem token_move (notFull : lzcGroupFull s.lzc = false) (ready : lzcReady s.lzc = true) :
    (opMove s).LeadsTo (lzcTokenOn d s) := by
  rw [h.opMove_eq, lzcMove_token notFull ready, h.lzcToken_eq ready]
  rfl

theorem finish_move (starved : LzcStarved s.lzc) (complete : lzcComplete s.lzc = true) :
    (opMove s).LeadsTo (outEnd (outBytes [] s)) := by
  rw [h.opMove_eq, lzcMove_finish starved complete, lzcFinish, h.op_eq, outBytes_nil]
  rfl

theorem input_move (starved : LzcStarved s.lzc) (going : s.lzc.eoi = false) :
    opMove s = takeIn s (fun b s => .unit (lzcStore b s)) (fun s => .unit (.next (lzcInputEnd s))) := by
  rw [h.opMove_eq, lzcMove_input starved (by simp [lzcComplete, going])]

theorem byte_move {b : Byte} {q : List Beat} (starved : LzcStarved s.lzc) (going : s.lzc.eoi = false)
    (more : s.lzc.nIn < d.length) (inq : s.inq = .data b :: q) : (opMove s).LeadsTo (lzcByteTaken b q s) := by
  have admitted := h.admitted
  have fits := h.fits
  have room : s.lzc.nIn + 1 < Config.posLimit := by omega
  rw [h.input_move starved going, takeIn_data inq (by omega), lzcStore, if_pos room]
  rfl

theorem end_move {q : List Beat} (starved : LzcStarved s.lzc) (going : s.lzc.eoi = false) (inq : s.inq = .fin :: q) :
    (opMove s).LeadsTo (lzcInputEnd { s with inq := q, inTaken := 0 }) := by
  rw [h.input_move starved going, takeIn_fin inq]
  rfl

/-! After each move LZ.COMP runs on, with less work left. -/

theorem closed (full : lzcGroupFull s.lzc = true) :
    LzCompAt d rest [] (delivered (s.lzc.flag :: g) (lzcGroupReset s)) ∧
      lzcWork d (lzcGroupReset s).lzc < lzcWork d s.lzc := by
  have tokens : 0 < s.lzc.t := (h.closes full).elim (fun eight => by rw [eight]; decide) And.left
  refine ⟨{ h with toLzcHolds := { h.groupReset with }, quiet := rfl }, ?_⟩
  simp only [lzcWork, lzcGroupReset]
  omega

theorem tokenMade (notFull : lzcGroupFull s.lzc = false) (ready : lzcReady s.lzc = true) :
    LzCompAt d rest (g ++ tokenBytes d s.lzc.i (find d s.lzc.i)) (lzcTokenOn d s) ∧
      lzcWork d (lzcTokenOn d s).lzc < lzcWork d s.lzc := by
  have inside : s.lzc.i < d.length := (h.present ready).1.trans_le h.nIn_le
  have advance := tokenAdvance_bounds d s.lzc.i inside
  refine ⟨{ h with toLzcHolds := h.token ready (h.room notFull) }, ?_⟩
  simp only [lzcWork, lzcTokenOn]
  omega

theorem byteTaken (going : s.lzc.eoi = false) (more : s.lzc.nIn < d.length) :
    ∃ b q, s.inq = .data b :: q ∧ LzCompAt d rest g (lzcByteTaken b q s) ∧
      lzcWork d (lzcByteTaken b q s).lzc < lzcWork d s.lzc := by
  have admitted := h.admitted
  have inq : s.inq = .data d[s.lzc.nIn] :: (message (d.drop (s.lzc.nIn + 1)) ++ rest) := by
    rw [h.inq, going, List.drop_eq_getElem_cons more]
    rfl
  refine ⟨_, _, inq, { h with toLzcHolds := { h.store going more with }, inq := ?_, admitted := ?_ }, ?_⟩
  · exact (if_neg (by simp [lzcByteTaken, going])).symm
  · simp only [lzcByteTaken]
    omega
  · simp only [lzcWork, lzcByteTaken]
    omega

theorem inputEnded (going : s.lzc.eoi = false) (all : s.lzc.nIn = d.length) :
    s.inq = .fin :: rest ∧ LzCompAt d rest g (lzcInputEnd { s with inq := rest, inTaken := 0 }) ∧
      lzcWork d (lzcInputEnd { s with inq := rest, inTaken := 0 }).lzc < lzcWork d s.lzc := by
  have inq := h.inq
  rw [going, all, List.drop_length] at inq
  refine ⟨inq, { h with toLzcHolds := { h.inputEnd all with }, inq := rfl, admitted := ?_ }, ?_⟩
  · simp [lzcInputEnd, all]
  · simp [lzcWork, lzcInputEnd, going]

end

/-- LZ.COMP puts out what LZC has still to put out, and ends with `DONE`. -/
theorem reaches {d g : List Byte} {rest : List Beat} {s : State} (h : LzCompAt d rest g s) :
    Reaches s (EndedDone s false (message (lzcRest d g s.lzc)) rest) := by
  induction work : lzcWork d s.lzc using Nat.strong_induction_on generalizing s g with
  | _ n ih =>
    subst work
    rcases lzc_choice s.lzc with full | ⟨notFull, ready⟩ | starved
    · obtain ⟨next, less⟩ := h.closed full
      rw [lzcRest_close (h.closes full) (l' := (lzcGroupReset s).lzc) rfl rfl rfl, ← List.cons_append, message_append]
      exact h.reaches_of_out (h.close_move full) { h with } ((ih _ less next rfl).mono fun t ended => ended.after rfl)
    · obtain ⟨next, less⟩ := h.tokenMade notFull ready
      have inside : s.lzc.i < d.length := (h.present ready).1.trans_le h.nIn_le
      rw [← lzcRest_token (l' := (lzcTokenOn d s).lzc) inside (h.room notFull) rfl rfl rfl]
      exact h.reaches_of_move (h.token_move notFull ready) (ih _ less next rfl)
    cases eoi : s.lzc.eoi with
    | true =>
      obtain ⟨complete, nothing⟩ := h.complete_of_eoi starved eoi
      have geom0 : zeroGeometry s = false := zeroGeometry_eq_false (by rw [h.op_eq]; rfl)
      rw [nothing]
      exact h.reaches_endedDone (h.finish_move starved complete) h.toUnderWay geom0 rfl (h.inq.trans (if_pos eoi))
    | false =>
      rcases h.nIn_le.lt_or_eq with more | all
      · obtain ⟨b, q, inq, next, less⟩ := h.byteTaken eoi more
        exact h.reaches_of_move (h.byte_move starved eoi more inq) (ih _ less next rfl)
      · obtain ⟨inq, next, less⟩ := h.inputEnded eoi all
        exact h.reaches_of_move (h.end_move starved eoi inq) (ih _ less next rfl)

end LzCompAt

/-- Settles O53: START puts LZC at its start values with empty buffers; from there what LZC has still to put out is
`LZ_COMP` of the message. -/
theorem runsLzComp : Obligations.RunsLzComp := by
  intro f s bs rest serves idle inq admitted
  have start : LzCompAt bs rest [] (acceptStart .lzComp f s) :=
    { UnderWay.acceptStart serves idle f with
      hbuf := rfl, nIn_le := Nat.zero_le _, i_le := le_rfl, gbuf := rfl, glen := rfl, tokens := Nat.zero_le _
      ended := fun (no : false = true) => nomatch no
      inq := inq, admitted := admitted
      fits := (Nat.le_add_left _ _).trans_lt admitted }
  have block : lzcRest bs [] (acceptStart .lzComp f s).lzc = lzComp bs := lzcRest_fresh rfl rfl
  refine ⟨_, startOp_idle idle.1 f, start.reaches.mono fun t ended => ?_⟩
  rw [← block]
  exact ended.after (sent := []) (List.append_nil _).symm

end Sys2Proof.Machine
end

section
/-! PROOF. The tokens of a CompressedBlock (42_window_decompressor.md R171 to R182): FLAG and LIT by their laws, and the
copy of a back-reference in closed form. -/

namespace Sys2Proof.Machine

/-- Settles O11: the meaning of FLAG. -/
theorem flagCompletes : Obligations.FlagCompletes := fun _ _ => rfl

/-! ### Passing a byte on -/

theorem lzdPass_out {s : State} (alone : s.cfg.op.lzdFeedsRld = false) (b : Byte) : lzdPass b s = outBytes [b] s :=
  if_neg (by simp [alone])

theorem lzdPass_rld {s : State} (feeds : s.cfg.op.lzdFeedsRld = true) (b : Byte) :
    lzdPass b s = outBytes (rldByte b s.rld).2 { s with rld := (rldByte b s.rld).1 } := if_pos feeds

/-- Passing a byte on, by what is left unchanged. -/
theorem lzdPass_frame (b : Byte) (s : State) :
    lzdPass b s = { s with rld := (lzdPass b s).rld, outPend := (lzdPass b s).outPend } := by
  rw [lzdPass]
  split <;> rfl

/-- The count of a RUN byte is its high nibble (30_encoding.md R82, R55). -/
theorem runCount_toNat (b : Byte) : (b.extractLsb' 4 4).toNat = b.toNat / 16 := by
  rw [BitVec.extractLsb'_toNat, Nat.shiftRight_eq_div_pow]
  omega

/-- Settles O12: the law of LIT; what RLD does with the byte is START or RUN. -/
theorem literalCompletes : Obligations.LiteralCompletes := by
  intro b s room
  have run := execLit_eq b s room
  rw [lzdPass_frame] at run
  refine ⟨_, _, _, _, run, fun a => ?_, rfl, fun alone => ?_, fun feeds first => ?_, fun feeds later => ?_⟩
  · simp only [Memory.read_write, eq_comm]
  · rw [lzdPass_out alone]
    exact ⟨rfl, rfl⟩
  · rw [lzdPass_rld feeds, rldByte_first first, outBytes_nil]
    exact ⟨rfl, rfl⟩
  · rw [lzdPass_rld feeds, rldByte_later later, ← runCount_toNat, ← List.map_replicate]
    exact ⟨rfl, rfl⟩

/-! ### The copy in closed form -/

/-- Byte `k` of a copy from inside the output is byte `k mod off` of the last `off` bytes (R177). -/
theorem getElem?_refCopy {off len k : Nat} {out : List Byte} (pos : 1 ≤ off) (reach : off ≤ out.length) (hk : k < len) :
    (refCopy off len out)[k]? = out[out.length - off + k % off]? := by
  have inside : out.length - off + k % off < out.length := by
    have := Nat.mod_lt k pos
    omega
  rw [refCopy, if_pos ⟨pos, reach⟩, List.getElem?_map, List.getElem?_range hk, Option.map_some,
    List.getD_eq_getElem _ _ inside, List.getElem?_eq_getElem inside]

theorem refCopy_length {off len : Nat} {out : List Byte} (pos : 1 ≤ off) (reach : off ≤ out.length) :
    (refCopy off len out).length = len := by
  rw [refCopy, if_pos ⟨pos, reach⟩, List.length_map, List.length_range]

theorem refCopy_out_of_range {off : Nat} {out : List Byte} (h : ¬(1 ≤ off ∧ off ≤ out.length)) (len : Nat) :
    refCopy off len out = [] := if_neg h

theorem refCopy_length_le (off len : Nat) (out : List Byte) : (refCopy off len out).length ≤ len := by
  by_cases h : 1 ≤ off ∧ off ≤ out.length
  · exact (refCopy_length h.1 h.2).le
  · rw [refCopy_out_of_range h]
    exact Nat.zero_le _

/-- The output with the copy repeats itself at the distance of the offset (R177). -/
theorem getElem?_append_refCopy {off len k : Nat} {out : List Byte} (pos : 1 ≤ off) (reach : off ≤ out.length)
    (hk : k < len) :
    (out ++ refCopy off len out)[out.length - off + k]? = (out ++ refCopy off len out)[out.length + k]? := by
  rw [List.getElem?_append_right (Nat.le_add_right _ _), Nat.add_sub_cancel_left, getElem?_refCopy pos reach hk]
  rcases Nat.lt_or_ge k off with first | later
  · rw [List.getElem?_append_left (by omega), Nat.mod_eq_of_lt first]
  · have source : out.length - off + k - out.length = k - off := by omega
    rw [List.getElem?_append_right (by omega), source, getElem?_refCopy pos reach (by omega),
      Nat.mod_eq_sub_mod later]

/-- A copy whose source is out of range appends nothing (R176, R182). -/
theorem copyRef_out_of_range {off : Nat} {out : List Byte} (h : ¬(1 ≤ off ∧ off ≤ out.length)) (len : Nat) :
    copyRef off len out = out := by
  cases len with
  | zero => rfl
  | succ len => exact if_pos (by omega)

/-- The copy loop appends the copy in closed form (R175 to R177, R182). -/
theorem copyRef_eq (off len : Nat) (out : List Byte) : copyRef off len out = out ++ refCopy off len out := by
  by_cases h : 1 ≤ off ∧ off ≤ out.length
  · obtain ⟨pos, reach⟩ := h
    have whole : (out ++ refCopy off len out).length = out.length + len := by
      rw [List.length_append, refCopy_length pos reach]
    have source : (out.length : Int) - off = ((out.length - off : Nat) : Int) := by omega
    have copied := copyLoop_take len (by omega : out.length - off < out.length) whole.ge
      fun k => getElem?_append_refCopy pos reach
    rwa [List.take_left, ← whole, List.take_length, ← source] at copied
  · rw [copyRef_out_of_range h, refCopy_out_of_range h, List.append_nil]

/-! ### The shapes of a back-reference -/

/-- A back-reference appends the copy in closed form to DHIST and passes it on (R175 to R177, R180, R182). -/
theorem lzdReference_eq_refCopy {off : BitVec 14} {len : BitVec 12} {s : State} {out : List Byte}
    (hist : s.dhist = Memory.ofBytes out) (count : s.lzd.outLen = out.length)
    (room : (out ++ refCopy off.toNat len.toNat out).length < Config.posLimit) :
    lzdReference off len s =
      .next
        { lzdPassAll (refCopy off.toNat len.toNat out) s with
          dhist := Memory.ofBytes (out ++ refCopy off.toNat len.toNat out)
          lzd :=
            { s.lzd with
              off := off
              len := len
              start := (out.length : Int) - (off.toNat : Int)
              outLen := out.length + (refCopy off.toNat len.toNat out).length
              k := (refCopy off.toNat len.toNat out).length
              t := s.lzd.t + 1
              phase := if s.lzd.t + 1 = Config.group then .flag else .token
              tok := [] } } := by
  rw [lzdReference_eq off len s out hist count (by rwa [copyRef_eq]), copyRef_eq, List.drop_left, List.length_append,
    Nat.add_sub_cancel_left]

theorem lzdPassAll_out {s : State} (alone : s.cfg.op.lzdFeedsRld = false) (bs : List Byte) :
    lzdPassAll bs s = outBytes bs s := if_neg (by simp [alone])

theorem lzdPassAll_rld {s : State} (feeds : s.cfg.op.lzdFeedsRld = true) (bs : List Byte) :
    lzdPassAll bs s = outBytes (rldBytes bs s.rld).2 { s with rld := (rldBytes bs s.rld).1 } := if_pos feeds

theorem lzdReference_done {off : BitVec 14} {len : BitVec 12} {s : State} {out : List Byte}
    (hist : s.dhist = Memory.ofBytes out) (count : s.lzd.outLen = out.length)
    (room : out.length + len.toNat < Config.posLimit) :
    ∃ t, lzdReference off len s = .next t ∧ ReferenceDone off.toNat len.toNat out s t := by
  have fits : (out ++ refCopy off.toNat len.toNat out).length < Config.posLimit := by
    have := refCopy_length_le off.toNat len.toNat out
    rw [List.length_append]
    omega
  refine ⟨_, lzdReference_eq_refCopy hist count fits, ?_, fun a => ?_, rfl, rfl, rfl, rfl, rfl, fun alone => ?_,
    fun feeds => ?_⟩
  · rw [lzdPassAll_frame]
  · rw [hist, Memory.read_ofBytes, Memory.read_ofBytes, List.getElem?_append]
  · rw [lzdPassAll_out alone]
    exact ⟨rfl, rfl⟩
  · rw [lzdPassAll_rld feeds]
    exact ⟨rfl, rfl⟩

/-- Settles O13: every shape is the copy of its offset and length, one-byte fields being the whole byte. -/
theorem referencesComplete : Obligations.ReferencesComplete := by
  intro s out hist count
  refine ⟨fun off len room => ?_, fun off _ len room => ?_, fun _ off len room => ?_, fun _ off _ len room => ?_⟩
  · rw [← lenOfByte_toNat] at room
    rw [← offOfByte_toNat, ← lenOfByte_toNat]
    exact lzdReference_done hist count room
  · rw [← offOfByte_toNat]
    exact lzdReference_done hist count room
  · rw [← lenOfByte_toNat] at room
    rw [← lenOfByte_toNat]
    exact lzdReference_done hist count room
  · exact lzdReference_done hist count room

end Sys2Proof.Machine
end

section
/-! PROOF. `LZ_DECOMP` as a function (42_window_decompressor.md R171 to R181): one equation for each item of a block,
and from them the bounds of its output. -/

namespace Sys2Proof.Machine

/-! ### The bytes of a back-reference -/

theorem encode_of_decode {ctx : Ctx} {bs rest : List Byte} {i : Instr} (h : decode ctx bs = .ok (i, rest)) :
    encode i ++ rest = bs :=
  (encodeOfDecode ctx bs i rest h).1

/-- What stands whole before other bytes is read there as it is read alone. -/
theorem decode_append_of_whole {ctx : Ctx} {bs : List Byte} {i : Instr} (whole : decode ctx bs = .ok (i, []))
    (rest : List Byte) : decode ctx (bs ++ rest) = .ok (i, rest) := by
  obtain ⟨bytes, wf, rfl⟩ := encodeOfDecode ctx bs i [] whole
  rw [← bytes, List.append_nil]
  exact decodeOfEncode i rest wf

/-- A back-reference has two bytes or more (30_encoding.md R108). -/
theorem encode_reference_length {i : Instr} (place : i.ctx = .reference) : 2 ≤ (encode i).length := by
  cases i with
  | ref11 | ref12 | ref21 | ref22 => simp [encode, offBytes2, lenBytes2]
  | _ => cases place

theorem rest_length_of_decode_reference {bs rest : List Byte} {i : Instr} (h : decode .reference bs = .ok (i, rest)) :
    rest.length + 2 ≤ bs.length := by
  rw [← encode_of_decode h, List.length_append, Nat.add_comm]
  exact Nat.add_le_add_right (encode_reference_length (ctx_of_decode h)) _

/-! ### Enough rounds -/

/-- As many rounds as there are bytes are enough (R179). -/
theorem lzTokens_congr_fuel {fuel fuel' t : Nat} {flags : BitVec 8} {bs out : List Byte} (enough : bs.length ≤ fuel)
    (enough' : bs.length ≤ fuel') : lzTokens fuel t flags bs out = lzTokens fuel' t flags bs out := by
  induction fuel generalizing fuel' t flags bs out with
  | zero =>
    rw [List.eq_nil_of_length_eq_zero (Nat.le_zero.1 enough), lzTokens_nil, lzTokens_nil]
  | succ fuel ih =>
    cases bs with
    | nil => rw [lzTokens_nil, lzTokens_nil]
    | cons b rest =>
      obtain ⟨fuel', rfl⟩ := Nat.exists_eq_succ_of_ne_zero (Nat.ne_zero_of_lt enough')
      have less : rest.length ≤ fuel := Nat.le_of_succ_le_succ enough
      have less' : rest.length ≤ fuel' := Nat.le_of_succ_le_succ enough'
      simp only [lzTokens]
      split
      · exact ih less less'
      · split
        · split
          · rfl
          · rename_i hdec
            have shorter := rest_length_of_decode_reference hdec
            rw [List.length_cons] at shorter
            exact ih (by omega) (by omega)
        · exact ih less less'

/-- The output of the loop of R179 for the bytes that are left, with `t` tokens of the group done. -/
def lzOutput (t : Nat) (flags : BitVec 8) (bs out : List Byte) : List Byte := lzTokens bs.length t flags bs out

/-! ### An equation for each item -/

theorem lzDecomp_eq (bs : List Byte) : lzDecomp bs = lzOutput Config.group 0 bs [] := rfl

theorem lzOutput_nil (t : Nat) (flags : BitVec 8) (out : List Byte) : lzOutput t flags [] out = out := rfl

theorem lzOutput_flag (flags b : BitVec 8) (bs out : List Byte) :
    lzOutput Config.group flags (b :: bs) out = lzOutput 0 b bs out := rfl

theorem lzOutput_literal {t : Nat} {flags : BitVec 8} (inGroup : t < Config.group) (bit : flags.getLsbD t = false)
    (b : Byte) (bs out : List Byte) : lzOutput t flags (b :: bs) out = lzOutput (t + 1) flags bs (out ++ [b]) :=
  (if_neg inGroup.ne).trans (if_neg (ne_true_of_eq_false bit))

/-- A back-reference that is cut by the end of the block is dropped (R178). -/
theorem lzOutput_cut {t : Nat} {flags : BitVec 8} {bs out : List Byte} {e : DecodeError} (inGroup : t < Config.group)
    (bit : flags.getLsbD t = true) (cut : decode .reference bs = .error e) : lzOutput t flags bs out = out := by
  cases bs with
  | nil => rfl
  | cons b bs => rw [lzOutput, List.length_cons, lzTokens, if_neg inGroup.ne, if_pos bit, cut]

theorem lzOutput_reference {t : Nat} {flags : BitVec 8} {bs rest out : List Byte} {i : Instr}
    (inGroup : t < Config.group) (bit : flags.getLsbD t = true) (read : decode .reference bs = .ok (i, rest)) :
    lzOutput t flags bs out =
      lzOutput (t + 1) flags rest (out ++ refCopy (refOffset i).toNat (refLength i).toNat out) := by
  have shorter := rest_length_of_decode_reference read
  cases bs with
  | nil => cases read
  | cons b bs =>
    rw [List.length_cons] at shorter
    rw [lzOutput, List.length_cons, lzTokens, if_neg inGroup.ne, if_pos bit, read, ← copyRef_eq]
    exact lzTokens_congr_fuel (by omega) le_rfl

/-! ### Bounds of the output -/

/-- Each item puts its bytes after those there were: a literal one, and a back-reference of two bytes or more at most
4095 (R181). -/
theorem lzTokens_bounds (fuel t : Nat) (flags : BitVec 8) (bs out : List Byte) :
    out.length ≤ (lzTokens fuel t flags bs out).length ∧
      2 * (lzTokens fuel t flags bs out).length ≤ 2 * out.length + 4095 * bs.length := by
  fun_induction lzTokens fuel t flags bs out with
  | case1 | case2 => omega
  | case3 fuel flags b rest out ih =>
    rw [List.length_cons]
    omega
  | case4 fuel t flags b rest out => omega
  | case5 fuel t flags b rest out inGroup bit i rest' read ih =>
    have copied := refCopy_length_le (refOffset i).toNat (refLength i).toNat out
    have length := (refLength i).isLt
    have shorter := rest_length_of_decode_reference read
    rw [copyRef_eq, List.length_append] at ih
    rw [copyRef_eq]
    omega
  | case6 fuel t flags b rest out inGroup bit ih =>
    rw [List.length_append, List.length_singleton] at ih
    rw [List.length_cons]
    omega

/-- The output so far is part of the output. -/
theorem length_le_lzOutput (t : Nat) (flags : BitVec 8) (bs out : List Byte) :
    out.length ≤ (lzOutput t flags bs out).length :=
  (lzTokens_bounds _ t flags bs out).1

/-- Settles O46: nothing has been produced before the first item. -/
theorem decompressedSizeBound : Obligations.DecompressedSizeBound := by
  intro b
  have bound := (lzTokens_bounds b.length Config.group 0 b []).2
  rw [List.length_nil] at bound
  rw [lzDecomp]
  omega

end Sys2Proof.Machine
end

section
/-! PROOF. The step form of the decompressor (42_window_decompressor.md R180): each move of LZD goes one item, or one
byte of a back-reference, further through the block, whose output by the loop of R179 stays the same; so `LZ.DECOMP`
computes `LZ_DECOMP`. -/

namespace Sys2Proof.Machine

/-! ### The parser of back-references -/

/-- The bytes of the current item that LZD has parsed when it is in the phase: one constructor for each way into a phase
in the table of R180. -/
inductive Parsed : LzdPhase → List Byte → Prop where
  | flag : Parsed .flag []
  | token : Parsed .token []
  | off2 {b0 : Byte} (key : b0.getLsbD 6 = true) : Parsed .off2 [b0]
  | shortOff {b0 : Byte} (key : b0.getLsbD 6 = false) : Parsed .len1 [b0]
  | longOff {b0 : Byte} (key : b0.getLsbD 6 = true) (b1 : Byte) : Parsed .len1 [b0, b1]
  | len2 {off : List Byte} {c0 : Byte} (offset : Parsed .len1 off) (key : c0.getLsbD 4 = true) :
    Parsed .len2 (off ++ [c0])
  | shortLen {off : List Byte} {c0 : Byte} (offset : Parsed .len1 off) (key : c0.getLsbD 4 = false) :
    Parsed .copy (off ++ [c0])
  | longLen {bs : List Byte} (first : Parsed .len2 bs) (c1 : Byte) : Parsed .copy (bs ++ [c1])

namespace Parsed

/-- In phase LEN1 the offset has been parsed, and ParseLEN is to follow (30_encoding.md R101). -/
theorem decode_offset {off : List Byte} (h : Parsed .len1 off) :
    (∃ o, ∀ bs, decode .reference (off ++ bs) = decodeLenAfter1 o bs) ∨
      ∃ pad o, ∀ bs, decode .reference (off ++ bs) = decodeLenAfter2 pad o bs := by
  cases h with
  | shortOff key => exact .inl ⟨_, fun bs => if_neg (ne_true_of_eq_false key)⟩
  | longOff key b1 => exact .inr ⟨_, _, fun bs => if_pos key⟩

/-- A back-reference is not whole before phase COPY. -/
theorem cut {phase : LzdPhase} {tok : List Byte} (h : Parsed phase tok) (going : phase ≠ .copy) :
    decode .reference tok = .error .endOfBytes := by
  cases h with
  | flag | token => rfl
  | off2 key => exact if_pos key
  | shortOff key => exact if_neg (ne_true_of_eq_false key)
  | longOff key b1 => exact if_pos key
  | len2 offset key =>
    rcases offset.decode_offset with ⟨o, len⟩ | ⟨pad, o, len⟩ <;> rw [len] <;> exact if_pos key
  | shortLen | longLen => exact absurd rfl going

/-- In phase COPY the back-reference is whole. -/
theorem whole {tok : List Byte} (h : Parsed .copy tok) : ∃ i, decode .reference tok = .ok (i, []) := by
  cases h with
  | shortLen offset key =>
    rcases offset.decode_offset with ⟨o, len⟩ | ⟨pad, o, len⟩ <;> rw [len] <;>
      exact ⟨_, if_neg (ne_true_of_eq_false key)⟩
  | longLen first c1 =>
    cases first with
    | len2 offset key =>
      rcases offset.decode_offset with ⟨o, len⟩ | ⟨pad, o, len⟩ <;> rw [List.append_assoc, len] <;>
        exact ⟨_, if_pos key⟩

/-- Where an item is to begin nothing of it has been parsed. -/
theorem tok_eq_nil {phase : LzdPhase} {tok : List Byte} (h : Parsed phase tok)
    (fresh : phase = .flag ∨ phase = .token) : tok = [] := by
  rcases fresh with rfl | rfl <;> cases h <;> rfl

/-- Where a token is done the next item is to begin (R171). -/
theorem next (t : Nat) : Parsed (if t + 1 = Config.group then .flag else .token) [] := by
  split
  · exact .flag
  · exact .token

end Parsed

/-- Parsing a byte of a back-reference, by what is left unchanged. -/
theorem lzdParse_frame (b : Byte) (l : Lzd) :
    lzdParse b l =
      { l with
        off := (lzdParse b l).off, len := (lzdParse b l).len, phase := (lzdParse b l).phase, tok := l.tok ++ [b] } := by
  cases phase : l.phase with
  | token | len1 =>
    simp only [lzdParse, phase]
    split <;> rfl
  | flag | off2 | len2 | copy => simp only [lzdParse, phase]

/-- The phase after a byte of a back-reference, by the rows of R180. -/
theorem lzdParse_phase (b : Byte) (l : Lzd) :
    (lzdParse b l).phase =
      match l.phase with
      | .flag => .flag
      | .token => if b.getLsbD 6 then .off2 else .len1
      | .off2 => .len1
      | .len1 => if b.getLsbD 4 then .len2 else .copy
      | .len2 => .copy
      | .copy => .copy := by
  cases phase : l.phase with
  | token | len1 =>
    simp only [lzdParse, phase]
    split <;> rfl
  | flag | off2 | len2 | copy => simp only [lzdParse, phase]

/-- A byte of a back-reference is parsed with those before it. -/
theorem Parsed.parse {l : Lzd} (h : Parsed l.phase l.tok) (inToken : l.phase ≠ .flag) (going : l.phase ≠ .copy)
    (b : Byte) : Parsed (lzdParse b l).phase (l.tok ++ [b]) := by
  rw [lzdParse_phase]
  generalize l.phase = phase, l.tok = tok at *
  cases phase with
  | flag => exact absurd rfl inToken
  | token =>
    cases h
    cases key : b.getLsbD 6 with
    | true => exact off2 key
    | false => exact shortOff key
  | off2 =>
    cases h with
    | off2 key => exact longOff key b
  | len1 =>
    cases key : b.getLsbD 4 with
    | true => exact len2 h key
    | false => exact shortLen h key
  | len2 => exact longLen h b
  | copy => exact absurd rfl going

/-! ### LZD inside a block -/

/-- The tokens of the group that are done, counted as the loop of R179 counts them: eight where a FLAG is expected. -/
def tokensDone (phase : LzdPhase) (t : Nat) : Nat := if phase = .flag then Config.group else t

theorem tokensDone_of_ne_flag {phase : LzdPhase} (inToken : phase ≠ .flag) (t : Nat) : tokensDone phase t = t :=
  if_neg inToken

/-- Where a token is done, one more is (R171, R180). -/
theorem tokensDone_next (t : Nat) : tokensDone (if t + 1 = Config.group then .flag else .token) (t + 1) = t + 1 := by
  split
  · rename_i eight
    exact eight.symm
  · rfl

/-- LZD stands inside a block whose output is `d`: it has produced `out`, which DHIST holds, and `bs` has still to be
taken. -/
structure LzdAt (d out bs : List Byte) (l : Lzd) (m : Memory) : Prop where
  hist : m = Memory.ofBytes out
  count : l.outLen = out.length
  parsed : Parsed l.phase l.tok
  inGroup : l.phase ≠ .flag → l.t < Config.group
  bit : l.phase ≠ .flag → l.phase ≠ .token → l.flags.getLsbD l.t = true
  output : lzOutput (tokensDone l.phase l.t) l.flags (l.tok ++ bs) out = d
  taken : l.p + bs.length < Config.posLimit
  fits : d.length < Config.posLimit

namespace LzdAt

/-- LZD at its start values stands at the first byte of the block. -/
theorem init {bs : List Byte} (taken : bs.length < Config.posLimit) (fits : (lzDecomp bs).length < Config.posLimit) :
    LzdAt (lzDecomp bs) [] bs Lzd.init [] where
  hist := rfl
  count := rfl
  parsed := .flag
  inGroup no := absurd rfl no
  bit no _ := absurd rfl no
  output := (lzDecomp_eq bs).symm
  taken := (Nat.zero_add _).trans_lt taken
  fits := fits

theorem produced_lt {d out bs : List Byte} {l : Lzd} {m : Memory} (h : LzdAt d out bs l m) :
    out.length < Config.posLimit :=
  (h.output ▸ length_le_lzOutput _ _ _ _).trans_lt h.fits

theorem taken_succ {d out bs : List Byte} {b : Byte} {l : Lzd} {m : Memory} (h : LzdAt d out (b :: bs) l m) :
    l.p + 1 + bs.length < Config.posLimit := by
  have taken := h.taken
  rw [List.length_cons] at taken
  omega

/-- Where an item is to begin, the output is that of the bytes to be taken. -/
theorem output_fresh {d out bs : List Byte} {l : Lzd} {m : Memory} (h : LzdAt d out bs l m)
    (fresh : l.phase = .flag ∨ l.phase = .token) : lzOutput (tokensDone l.phase l.t) l.flags bs out = d := by
  have output := h.output
  rwa [h.parsed.tok_eq_nil fresh] at output

/-- Where the block ends, all its output has been produced: an item that is cut gives none (R178). -/
theorem output_eq {d out : List Byte} {l : Lzd} {m : Memory} (h : LzdAt d out [] l m) (taking : l.phase ≠ .copy) :
    out = d := by
  by_cases fresh : l.phase = .flag ∨ l.phase = .token
  · exact (lzOutput_nil _ _ out).symm.trans (h.output_fresh fresh)
  · obtain ⟨inToken, begun⟩ := not_or.1 fresh
    have output := h.output
    rwa [List.append_nil, tokensDone_of_ne_flag inToken,
      lzOutput_cut (h.inGroup inToken) (h.bit inToken begun) (h.parsed.cut taking)] at output

/-- A FLAG opens the next group (R171, R180). -/
theorem flag {d out bs : List Byte} {b : Byte} {l : Lzd} {m : Memory} (h : LzdAt d out (b :: bs) l m)
    (phase : l.phase = .flag) : LzdAt d out bs { l with p := l.p + 1, flags := b, t := 0, phase := .token } m where
  hist := h.hist
  count := h.count
  parsed := h.parsed.tok_eq_nil (.inl phase) ▸ .token
  inGroup _ := Nat.zero_lt_succ 7
  bit _ no := absurd rfl no
  output := by
    have output := h.output_fresh (.inl phase)
    rw [phase] at output
    rw [h.parsed.tok_eq_nil (.inl phase)]
    exact (lzOutput_flag l.flags b bs out).symm.trans output
  taken := h.taken_succ
  fits := h.fits

/-- LZD after a token that is done (R171, R180). -/
theorem of_token_done {d out bs : List Byte} {l : Lzd} {m : Memory} (hist : m = Memory.ofBytes out)
    (count : l.outLen = out.length) (inGroup : l.t < Config.group) (output : lzOutput (l.t + 1) l.flags bs out = d)
    (taken : l.p + bs.length < Config.posLimit) (fits : d.length < Config.posLimit) :
    LzdAt d out bs
      { l with t := l.t + 1, phase := if l.t + 1 = Config.group then .flag else .token, tok := [] } m where
  hist := hist
  count := count
  parsed := .next l.t
  inGroup := by
    intro inToken
    refine Nat.lt_of_le_of_ne inGroup fun eight => inToken ?_
    exact if_pos eight
  bit inToken begun := by
    dsimp only at inToken begun
    split at begun
    · rename_i eight
      exact absurd (if_pos eight) inToken
    · exact absurd rfl begun
  output := by
    rw [tokensDone_next]
    exact output
  taken := taken
  fits := fits

/-- A literal is produced (R172, R180). -/
theorem literal {d out bs : List Byte} {b : Byte} {l : Lzd} {m : Memory} (h : LzdAt d out (b :: bs) l m)
    (phase : l.phase = .token) (bit : l.flags.getLsbD l.t = false) :
    LzdAt d (out ++ [b]) bs
      { l with
        p := l.p + 1
        outLen := l.outLen + 1
        t := l.t + 1
        phase := if l.t + 1 = Config.group then .flag else .token
        tok := [] }
      (Memory.write m l.outLen b) := by
  have inToken : l.phase ≠ .flag := by simp [phase]
  have inGroup := h.inGroup inToken
  have output := h.output_fresh (.inr phase)
  rw [tokensDone_of_ne_flag inToken, lzOutput_literal inGroup bit] at output
  refine of_token_done (l := { l with p := l.p + 1, outLen := l.outLen + 1 }) ?_ ?_ inGroup output h.taken_succ h.fits
  · rw [h.hist, h.count, Memory.write_ofBytes]
  · rw [List.length_append, ← h.count]
    rfl

/-- A byte of a back-reference is parsed (R173, R180). -/
theorem parse {d out bs : List Byte} {b : Byte} {l : Lzd} {m : Memory} (h : LzdAt d out (b :: bs) l m)
    (inToken : l.phase ≠ .flag) (taking : l.phase ≠ .copy)
    (bit : l.phase = .token → l.flags.getLsbD l.t = true) :
    LzdAt d out bs (lzdParse b { l with p := l.p + 1 }) m := by
  have parsed := Parsed.parse (l := { l with p := l.p + 1 }) h.parsed inToken taking b
  have still : (lzdParse b { l with p := l.p + 1 }).phase ≠ .flag := fun no =>
    List.append_ne_nil_of_right_ne_nil _ (List.cons_ne_nil b []) (parsed.tok_eq_nil (.inl no))
  have output := h.output
  rw [tokensDone_of_ne_flag inToken, List.append_cons] at output
  rw [lzdParse_frame]
  exact
    { hist := h.hist, count := h.count, parsed := parsed, inGroup := fun _ => h.inGroup inToken
      bit := fun _ _ => if begun : l.phase = .token then bit begun else h.bit inToken begun
      output := (tokensDone_of_ne_flag still l.t).symm ▸ output
      taken := h.taken_succ, fits := h.fits }

/-- A back-reference that is whole is copied (R175, R180). -/
theorem reference {d out bs : List Byte} {l : Lzd} {m : Memory} {i : Instr} (h : LzdAt d out bs l m)
    (phase : l.phase = .copy) (read : decode .reference l.tok = .ok (i, [])) (off : BitVec 14) (len : BitVec 12)
    (start : Int) (k : Nat) :
    LzdAt d (out ++ refCopy (refOffset i).toNat (refLength i).toNat out) bs
      { l with
        off := off
        len := len
        start := start
        outLen := out.length + (refCopy (refOffset i).toNat (refLength i).toNat out).length
        k := k
        t := l.t + 1
        phase := if l.t + 1 = Config.group then .flag else .token
        tok := [] }
      (Memory.ofBytes (out ++ refCopy (refOffset i).toNat (refLength i).toNat out)) := by
  have inToken : l.phase ≠ .flag := by simp [phase]
  have inGroup := h.inGroup inToken
  have bit := h.bit inToken (by simp [phase])
  have output := h.output
  rw [tokensDone_of_ne_flag inToken, lzOutput_reference inGroup bit (decode_append_of_whole read bs)] at output
  exact of_token_done (l := { l with off := off, len := len, start := start, outLen := _, k := k }) rfl
    List.length_append.symm inGroup output h.taken h.fits

end LzdAt

/-! ### The moves of LZD -/

/-- Every shape of a back-reference is the copy of its offset and length (R88, R101). -/
theorem exec_reference {i : Instr} (place : i.ctx = .reference) (s : State) :
    exec i s = lzdReference (refOffset i) (refLength i) s := by
  cases i with
  | ref11 | ref12 | ref21 | ref22 => rfl
  | _ => cases place

namespace LzdAt

/-- LZD takes the next byte of the block, and passes on what it produces (R180). -/
theorem byte_move {d out bs : List Byte} {b : Byte} {s : State} (h : LzdAt d out (b :: bs) s.lzd s.dhist)
    (taking : s.lzd.phase ≠ .copy) :
    ∃ new m l, (lzdByte b s).LeadsTo { lzdPassAll new s with dhist := m, lzd := l } ∧ LzdAt d (out ++ new) bs l m := by
  have room : s.lzd.p + 1 < Config.posLimit := (Nat.le_add_right _ _).trans_lt h.taken_succ
  rw [lzdByte_eq, if_pos room]
  by_cases flagged : s.lzd.phase = .flag
  · rw [if_pos flagged]
    refine ⟨[], s.dhist, _, ?_, (List.append_nil out).symm ▸ h.flag flagged⟩
    rw [lzdPassAll_nil]
    rfl
  rw [if_neg flagged]
  by_cases literal : s.lzd.phase = .token ∧ s.lzd.flags.getLsbD s.lzd.t = false
  · rw [if_pos literal]
    have next := h.literal literal.1 literal.2
    have fits : s.lzd.outLen + 1 < Config.posLimit := by
      have produced := next.produced_lt
      rwa [← next.count] at produced
    refine ⟨[b], _, _, ?_, next⟩
    have run := execLit_eq b (lzdCounted s) fits
    rw [lzdPass_with b s s.dhist (lzdCounted s).lzd] at run
    rwa [lzdPassAll_cons, lzdPassAll_nil]
  · rw [if_neg literal]
    refine ⟨[], s.dhist, _, ?_, (List.append_nil out).symm ▸ h.parse flagged taking (by simpa using literal)⟩
    rw [lzdPassAll_nil]
    rfl

/-- LZD runs a back-reference that is whole, and passes on what it produces (R180, row COPY). -/
theorem copy_move {d out bs : List Byte} {s : State} (h : LzdAt d out bs s.lzd s.dhist) (phase : s.lzd.phase = .copy)
    (next : Move) :
    ∃ new m l, (lzdMove s next).LeadsTo { lzdPassAll new s with dhist := m, lzd := l } ∧
      LzdAt d (out ++ new) bs l m ∧ l.phase ≠ .copy := by
  obtain ⟨i, read⟩ := (phase ▸ h.parsed : Parsed .copy s.lzd.tok).whole
  have next := h.reference phase read (refOffset i) (refLength i) ((out.length : Int) - ((refOffset i).toNat : Int))
    (refCopy (refOffset i).toNat (refLength i).toNat out).length
  refine ⟨_, _, _, ?_, next, ?_⟩
  · rw [lzdMove, if_pos phase, decodeMove_ok read, Move.instr_leadsTo, exec_reference (ctx_of_decode read)]
    exact lzdReference_eq_refCopy h.hist h.count next.produced_lt
  · dsimp only
    split <;> simp

end LzdAt

/-! ### LZ.DECOMP -/

/-- LZ.DECOMP runs on a message of which `bs` has still to be taken; the host has received what LZD has produced since
`s0`, and `rest` stands on IN after the message. -/
structure LzDecompAt (d out bs : List Byte) (rest : List Beat) (s0 s : State) : Prop
    extends UnderWay .lzDecomp s, LzdAt d out bs s.lzd s.dhist where
  inq : s.inq = message bs ++ rest
  admitted : s.inTaken + bs.length < Config.posLimit
  received : s.received = s0.received ++ out.map Beat.data

/-- Without RLD behind LZD, what LZD produces goes to OUT (R180). -/
theorem lzdPassAll_lzDecomp {s : State} (op : s.cfg.op = .lzDecomp) (new : List Byte) (m : Memory) (l : Lzd) :
    { lzdPassAll new s with dhist := m, lzd := l } = outBytes new { s with dhist := m, lzd := l } := by
  rw [lzdPassAll_out (by rw [op]; rfl)]
  rfl

namespace LzDecompAt

theorem opMove_taking {d out bs : List Byte} {rest : List Beat} {s0 s : State} (h : LzDecompAt d out bs rest s0 s)
    (taking : s.lzd.phase ≠ .copy) : opMove s = takeIn s lzdByte (fun s => .unit (.next (outEnd s))) :=
  (opMove_lzDecomp h.op_eq).trans (if_neg taking)

/-- What LZD produces in a move is delivered, and LZ.DECOMP runs on. -/
theorem produced {d out bs bs' : List Byte} {rest q : List Beat} {s0 s : State} {new : List Byte} {m : Memory} {l : Lzd}
    {taken : Nat} (h : LzDecompAt d out bs rest s0 s) (next : LzdAt d (out ++ new) bs' l m)
    (inq : q = message bs' ++ rest) (admitted : taken + bs'.length < Config.posLimit) :
    LzDecompAt d (out ++ new) bs' rest s0
      (delivered new { s with inq := q, inTaken := taken, dhist := m, lzd := l }) :=
  { h with
    toLzdAt := next, quiet := rfl, inq := inq, admitted := admitted
    received := by simp [delivered, h.received] }

/-- A back-reference that is whole is copied before a byte is taken. -/
theorem reaches_of_taking {d out bs : List Byte} {rest : List Beat} {s0 s : State} {P : State → Prop}
    (h : LzDecompAt d out bs rest s0 s)
    (run : ∀ {out s}, LzDecompAt d out bs rest s0 s → s.lzd.phase ≠ .copy → Reaches s P) : Reaches s P := by
  by_cases phase : s.lzd.phase = .copy
  · obtain ⟨new, m, l, move, next, taking⟩ := h.copy_move phase (takeIn s lzdByte (fun s => .unit (.next (outEnd s))))
    rw [← opMove_lzDecomp h.op_eq, lzdPassAll_lzDecomp h.op_eq] at move
    exact h.reaches_of_out move { h with } (run (h.produced next h.inq h.admitted) taking)
  · exact run h phase

theorem byte_taken {d out bs : List Byte} {b : Byte} {rest : List Beat} {s0 s : State}
    (h : LzDecompAt d out (b :: bs) rest s0 s) (taking : s.lzd.phase ≠ .copy) :
    ∃ new m l,
      (opMove s).LeadsTo
          (outBytes new { s with inq := message bs ++ rest, inTaken := s.inTaken + 1, dhist := m, lzd := l }) ∧
        LzdAt d (out ++ new) bs l m := by
  have admitted := h.admitted
  rw [List.length_cons] at admitted
  obtain ⟨new, m, l, move, next⟩ :=
    LzdAt.byte_move (s := { s with inq := message bs ++ rest, inTaken := s.inTaken + 1 }) h.toLzdAt taking
  refine ⟨new, m, l, ?_, next⟩
  rw [h.opMove_taking taking, takeIn_data h.inq (by omega)]
  rwa [lzdPassAll_lzDecomp ?_] at move
  exact h.op_eq

theorem takes_end {d out : List Byte} {rest : List Beat} {s0 s : State} (h : LzDecompAt d out [] rest s0 s)
    (taking : s.lzd.phase ≠ .copy) : Reaches s (EndedDone s0 false (message d) rest) := by
  have geom0 : zeroGeometry s = false := zeroGeometry_eq_false (by rw [h.op_eq]; rfl)
  have move : (opMove s).LeadsTo (outEnd (outBytes [] { s with inq := rest, inTaken := 0 })) := by
    rw [h.opMove_taking taking, takeIn_fin h.inq, outBytes_nil]
    rfl
  refine (h.reaches_endedDone move { h with } geom0 rfl rfl).mono fun t ended => ?_
  rw [← h.output_eq taking, ← List.append_nil out, message_append]
  exact ended.after h.received

/-- LZ.DECOMP puts out what is left of the block's output, and ends with `DONE`. -/
theorem reaches {d out bs : List Byte} {rest : List Beat} {s0 s : State} (h : LzDecompAt d out bs rest s0 s) :
    Reaches s (EndedDone s0 false (message d) rest) := by
  induction bs generalizing out s with
  | nil => exact h.reaches_of_taking takes_end
  | cons b bs ih =>
    refine h.reaches_of_taking fun {out s} h taking => ?_
    have admitted := h.admitted
    rw [List.length_cons] at admitted
    obtain ⟨new, m, l, move, next⟩ := h.byte_taken taking
    exact h.reaches_of_out move { h with } (ih (h.produced next rfl (by omega)))

end LzDecompAt

/-- Settles O54: START puts LZD at its start values with an empty history; from there every move keeps the output of the
block, up to the end of the message. -/
theorem runsLzDecomp : Obligations.RunsLzDecomp := by
  intro f s bs rest serves idle inq admitted fits
  have start : LzDecompAt (lzDecomp bs) [] bs rest s (acceptStart .lzDecomp f s) :=
    { UnderWay.acceptStart serves idle f, LzdAt.init ((Nat.le_add_left _ _).trans_lt admitted) fits with
      inq := inq, admitted := admitted, received := (List.append_nil _).symm }
  exact ⟨_, startOp_idle idle.1 f, start.reaches⟩

end Sys2Proof.Machine
end

section
/-! PROOF. The single-image container as functions (43_single_image.md R190 to R197): the total of a decode is the product
of the geometry, and the round trip joins those of the run-length codec and of the window codec. -/

namespace Sys2Proof.Machine

/-! ### The total of a decode -/

/-- The product of two words fits in their widths together. -/
theorem toNat_mul_toNat_lt {m n : Nat} (x : BitVec m) (y : BitVec n) : x.toNat * y.toNat < 2 ^ (m + n) :=
  (Nat.mul_lt_mul'' x.isLt y.isLt).trans_eq (Nat.pow_add 2 m n).symm

/-- Two 32-bit factors have a product below 2^64, so the total is exact (R195). -/
theorem totalBits_toNat (w h : Word) : (totalBits w h).toNat = w.toNat * h.toNat := by
  rw [totalBits_eq, BitVec.toNat_ofNat, Nat.mod_eq_of_lt (toNat_mul_toNat_lt w h)]

/-- Settles O15: both products fit in the width of the total. -/
theorem totalIsExactProduct : Obligations.TotalIsExactProduct := by
  refine ⟨totalBits_toNat, fun w h => ⟨?_, toNat_mul_toNat_lt w h⟩⟩
  rw [totalBits_toNat, BitVec.toNat_setWidth_of_le (by decide), BitVec.toNat_setWidth_of_le (by decide)]

/-- The total is 0 just where the width or the height is (60_exceptions.md R233). -/
theorem totalBits_beq_zero (w h : Word) : (totalBits w h == 0) = (w == 0 || h == 0) := by
  rw [Bool.eq_iff_iff]
  simp only [beq_iff_eq, Bool.or_eq_true, BitVec.toNat_eq, totalBits_toNat]
  exact Nat.mul_eq_zero

/-! ### The round trip -/

/-- The value to pad with after the encoder's records is the last pixel (R130). -/
theorem padValue_rleRuns (v : Byte) (cur : BitVec 1) (cnt : Nat) (bits : List (BitVec 1)) :
    padValue v (rleRuns cur cnt bits) = (bits.getLastD cur).setWidth 8 := by
  induction bits generalizing v cur cnt with
  | nil => simp [rleRuns, padValue, runByte_value]
  | cons b bits ih =>
    simp only [rleRuns, List.getLastD_cons]
    split
    next ends => exact ih _ b 1
    next goesOn =>
      obtain ⟨same, -⟩ : b = cur ∧ cnt ≠ Config.runMax := by simpa using goesOn
      rw [ih, same]

/-- The decoder gives the pixels of the encoder, cut to any total or padded to it with the last pixel, or with 0 where
there is none (40_run_length.md R129, R130, R133, R135). -/
theorem rleDec_rleEnc (bits : List (BitVec 1)) (total : Nat) :
    rleDec (rleEnc bits) total =
      (bits.map (BitVec.setWidth 8)).take total ++
        List.replicate (total - bits.length) ((bits.getLastD 0).setWidth 8) := by
  have pad : padValue ((rleEnc bits).headD 0) (rleEnc bits).tail = (bits.getLastD 0).setWidth 8 := by
    cases bits with
    | nil => rfl
    | cons b bits => exact (padValue_rleRuns _ b 1 bits).trans (by rw [List.getLastD_cons])
  rw [rleDec, flatMap_runElements_rleEnc, pad, List.length_map]

/-- A file with a whole header decodes to the header's geometry and the elements of its block (R192). -/
theorem imgDec_header (w h : Word) (payload : List Byte) :
    imgDec (be32 w ++ be32 h ++ payload) = some (w, h, rleDec (lzDecomp payload) (w.toNat * h.toNat)) := by
  have header : decode .imgHeader (be32 w ++ be32 h ++ payload) = .ok (.imgHeader w h, payload) :=
    decodeOfEncode (.imgHeader w h) payload rfl
  rw [imgDec, header]

/-- The file decodes to the pixels, cut or padded to the declared size (R197). -/
theorem imgDec_imgEnc (bits : List (BitVec 1)) (w h : Word) :
    imgDec (imgEnc bits w h) =
      some (w, h,
        (bits.map (BitVec.setWidth 8)).take (w.toNat * h.toNat) ++
          List.replicate (w.toNat * h.toNat - bits.length) ((bits.getLastD 0).setWidth 8)) := by
  rw [imgEnc, imgDec_header, windowRoundTrip, rleDec_rleEnc]

/-- Settles O49: the window round trip gives the RunStream back, and the decoder its pixels; where they are as many as
declared, nothing is cut and nothing padded. -/
theorem imageRoundTrip : Obligations.ImageRoundTrip := by
  refine fun bits w h => ⟨imgDec_imgEnc bits w h, fun whole => ?_⟩
  rw [imgDec_imgEnc, ← whole, Nat.sub_self, List.replicate_zero, List.append_nil,
    List.take_of_length_le (List.length_map _).le]

end Sys2Proof.Machine
end

section
/-! PROOF. `IMG.ENC` (43_single_image.md R190, R191): BIN, RLU and LZC as one pipeline, from pixels to the block of
their RunStream, with the moves that both containers share; so the machine computes `IMG_ENC`. -/

namespace Sys2Proof.Machine

/-! ### Storing what RLU hands on -/

/-- The state in which LZC has stored these bytes (41_window_compressor.md R152). -/
def lzcStored (new : List Byte) (s : State) : State :=
  { s with hbuf := Memory.writeAll s.hbuf s.lzc.nIn new, lzc := { s.lzc with nIn := s.lzc.nIn + new.length } }

theorem lzcStoreAll_eq_lzcStored {new : List Byte} {s : State} (fits : s.lzc.nIn + new.length < Config.posLimit) :
    lzcStoreAll new s = .next (lzcStored new s) := lzcStoreAll_fits fits

/-- Storing the next bytes of the block. -/
theorem LzcHolds.stored {d g new more : List Byte} {s : State} (h : LzcHolds d g s) (going : s.lzc.eoi = false)
    (next : d.drop s.lzc.nIn = new ++ more) :
    LzcHolds d g (lzcStored new s) ∧ d.drop (lzcStored new s).lzc.nIn = more := by
  have length := congrArg List.length next
  rw [List.length_drop, List.length_append] at length
  have room := h.nIn_le
  have left : d.drop (s.lzc.nIn + new.length) = more := by rw [← List.drop_drop, next, List.drop_left]
  refine ⟨{ h with hbuf := ?_, nIn_le := ?_, i_le := ?_, ended := ?_ }, left⟩
  · have written := Memory.writeAll_ofBytes (d.take s.lzc.nIn) new
    rw [List.length_take_of_le room, ← h.hbuf] at written
    rw [lzcStored, List.take_add, next, List.take_left]
    exact written
  · dsimp only [lzcStored]
    omega
  · exact h.i_le.trans (Nat.le_add_right _ _)
  · exact fun no => absurd (going.symm.trans no) (by decide)

/-! ### The encode pipeline, shared by both containers -/

/-- `IMG.ENC` or `VID.ENC` stands in BODY inside a block (R190, 44_multi_frame.md R201): the beats of `bs` have still to
be taken, what RLU makes of them is the part of the RunStream `d` that LZC has not received, and `rest` stands on IN after
the message. -/
structure PixelsAt (op : Op) (d g bs : List Byte) (rest : List Beat) (s : State) : Prop
    extends UnderWay op s, LzcHolds d g s where
  encodes : op = .imgEnc ∨ op = .vidEnc
  body : s.fra.phase = .body
  inq : s.inq = if s.lzc.eoi then rest else message bs ++ rest
  pending : s.lzc.eoi = false → d.drop s.lzc.nIn = rluBytes s.rlu (bs.map (binPixel s.cfg))
  admitted : s.inTaken + bs.length < Config.posLimit
  fits : d.length < Config.posLimit

/-- The moves that RLU and LZC still have to make, at most: beats to take, tokens to make, groups to close. -/
def pixelWork (d bs : List Byte) (l : Lzc) : Nat := bs.length + (!l.eoi).toNat + 2 * (d.length - l.i) + l.t

/-- The state in which RLU has taken a beat as a pixel, and LZC what RLU hands on. -/
def pixelTaken (b : Byte) (q : List Beat) (s : State) : State :=
  lzcStored (rluPixel (binPixel s.cfg b) s.rlu).2
    { s with inq := q, inTaken := s.inTaken + 1, rlu := (rluPixel (binPixel s.cfg b) s.rlu).1 }

/-- The state in which RLU has taken the end marker, and LZC the last bytes and the end of its input. -/
def pixelsEnded (q : List Beat) (s : State) : State :=
  lzcInputEnd (lzcStored (rluEnd s.rlu).2 { s with inq := q, inTaken := 0, rlu := (rluEnd s.rlu).1 })

namespace PixelsAt

section
variable {op : Op} {d g bs : List Byte} {rest : List Beat} {s : State} (h : PixelsAt op d g bs rest s)
include h

theorem opMove_eq : opMove s = lzcMove s (pixelMove s) := by
  have container : s.cfg.op = .imgEnc ∨ s.cfg.op = .vidEnc := h.op_eq.symm ▸ h.encodes
  have notLzComp : s.cfg.op ≠ .lzComp := by rcases container with op | op <;> simp [op]
  rw [opMove_compressing (.inr ⟨container, h.body⟩), compressorInput, if_neg notLzComp]

/-- A group that closes goes to OUT or to PBUF. -/
theorem close_move (full : lzcGroupFull s.lzc = true) :
    opMove s = .unit (andThen (lzcOut (s.lzc.flag :: g) s) fun s => .next (lzcGroupReset s)) := by
  rw [h.opMove_eq, lzcMove_close full, lzcGroupClose, h.read_gbuf]
  rfl

theorem token_move (notFull : lzcGroupFull s.lzc = false) (ready : lzcReady s.lzc = true) :
    (opMove s).LeadsTo (lzcTokenOn d s) := by
  rw [h.opMove_eq, lzcMove_token notFull ready, h.lzcToken_eq ready]
  rfl

theorem finish_move (starved : LzcStarved s.lzc) (complete : lzcComplete s.lzc = true) :
    (opMove s).LeadsTo (lzcFinish s) := by
  rw [h.opMove_eq, lzcMove_finish starved complete]
  rfl

theorem input_move (starved : LzcStarved s.lzc) (going : s.lzc.eoi = false) : opMove s = pixelMove s := by
  rw [h.opMove_eq, lzcMove_input starved (by simp [lzcComplete, going])]

/-- The bytes that LZC is to receive next fit its counter. -/
theorem next_fits {new more : List Byte} (next : d.drop s.lzc.nIn = new ++ more) :
    s.lzc.nIn + new.length < Config.posLimit := by
  have length := congrArg List.length next
  rw [List.length_drop, List.length_append] at length
  have received := h.nIn_le
  have fits := h.fits
  omega

theorem made (notFull : lzcGroupFull s.lzc = false) (ready : lzcReady s.lzc = true) :
    PixelsAt op d (g ++ tokenBytes d s.lzc.i (find d s.lzc.i)) bs rest (lzcTokenOn d s) ∧
      pixelWork d bs (lzcTokenOn d s).lzc < pixelWork d bs s.lzc := by
  have inside : s.lzc.i < d.length := (h.present ready).1.trans_le h.nIn_le
  have advance := tokenAdvance_bounds d s.lzc.i inside
  refine ⟨{ h with toLzcHolds := h.token ready (h.room notFull) }, ?_⟩
  simp only [pixelWork, lzcTokenOn]
  omega

end

section
variable {op : Op} {d g bs : List Byte} {b : Byte} {rest : List Beat} {s : State}

theorem pixel_taken (h : PixelsAt op d g (b :: bs) rest s) (starved : LzcStarved s.lzc) (going : s.lzc.eoi = false) :
    (opMove s).LeadsTo (pixelTaken b (message bs ++ rest) s) ∧
      PixelsAt op d g bs rest (pixelTaken b (message bs ++ rest) s) ∧
      pixelWork d bs (pixelTaken b (message bs ++ rest) s).lzc < pixelWork d (b :: bs) s.lzc := by
  have admitted := h.admitted
  rw [List.length_cons] at admitted
  have inq : s.inq = .data b :: (message bs ++ rest) := h.inq.trans (if_neg (ne_true_of_eq_false going))
  have next := h.pending going
  rw [List.map_cons, rluBytes] at next
  refine ⟨?_, ?_, ?_⟩
  · rw [h.input_move starved going, pixelMove, takeIn_data inq (by omega)]
    exact lzcStoreAll_eq_lzcStored (h.next_fits next)
  · obtain ⟨holds, left⟩ := h.stored going next
    exact
      { h with
        toLzcHolds := { holds with }
        inq := (if_neg (ne_true_of_eq_false going)).symm
        pending := fun _ => left
        admitted := (Nat.add_right_comm _ 1 _).trans_lt admitted }
  · simp only [pixelWork, pixelTaken, lzcStored, List.length_cons]
    omega

theorem end_taken (h : PixelsAt op d g [] rest s) (starved : LzcStarved s.lzc) (going : s.lzc.eoi = false) :
    (opMove s).LeadsTo (pixelsEnded rest s) ∧ PixelsAt op d g [] rest (pixelsEnded rest s) ∧
      pixelWork d [] (pixelsEnded rest s).lzc < pixelWork d [] s.lzc := by
  have inq : s.inq = .fin :: rest := h.inq.trans (if_neg (ne_true_of_eq_false going))
  have next : d.drop s.lzc.nIn = (rluEnd s.rlu).2 ++ [] := (h.pending going).trans (List.append_nil _).symm
  refine ⟨?_, ?_, ?_⟩
  · rw [h.input_move starved going, pixelMove, takeIn_fin inq]
    exact andThen_eq_next.2 ⟨_, lzcStoreAll_eq_lzcStored (h.next_fits next), rfl⟩
  · obtain ⟨holds, left⟩ := h.stored going next
    have all : (lzcStored (rluEnd s.rlu).2 s).lzc.nIn = d.length :=
      holds.nIn_le.antisymm (List.drop_eq_nil_iff.1 left)
    exact
      { h with
        toLzcHolds := { holds.inputEnd all with }
        inq := rfl
        pending := fun no => nomatch no
        admitted := Nat.two_pow_pos 64 }
  · simp [pixelWork, pixelsEnded, lzcStored, lzcInputEnd, going]

end

end PixelsAt

/-! ### IMG.ENC -/

/-- `IMG.ENC` stands in BODY inside a block (R190). -/
abbrev ImgEncAt (d g bs : List Byte) (rest : List Beat) (s : State) : Prop := PixelsAt .imgEnc d g bs rest s

namespace ImgEncAt

section
variable {d g bs : List Byte} {rest : List Beat} {s : State} (h : ImgEncAt d g bs rest s)
include h

theorem closed (full : lzcGroupFull s.lzc = true) :
    (opMove s).LeadsTo (outBytes (s.lzc.flag :: g) (lzcGroupReset s)) ∧
      ImgEncAt d [] bs rest (delivered (s.lzc.flag :: g) (lzcGroupReset s)) ∧
      pixelWork d bs (lzcGroupReset s).lzc < pixelWork d bs s.lzc := by
  have tokens : 0 < s.lzc.t := (h.closes full).elim (fun eight => by rw [eight]; decide) And.left
  refine ⟨?_, { h with toLzcHolds := { h.groupReset with }, quiet := rfl }, ?_⟩
  · rw [h.close_move full, lzcOut_outBytes (by simp [h.op_eq])]
    rfl
  · simp only [pixelWork, lzcGroupReset]
    omega

/-- With the block complete FRA goes to IDLE, and the end marker ends the operation (R190). -/
theorem finished (starved : LzcStarved s.lzc) (eoi : s.lzc.eoi = true) :
    Reaches s (EndedDone s false (message []) rest) := by
  obtain ⟨complete, -⟩ := h.complete_of_eoi starved eoi
  have move : (opMove s).LeadsTo (outEnd (outBytes [] { s with fra := { s.fra with phase := .idle } })) := by
    rw [outBytes_nil]
    have finish := h.finish_move starved complete
    rwa [lzcFinish, h.op_eq] at finish
  have geom0 : zeroGeometry s = false := zeroGeometry_eq_false (by rw [h.op_eq]; rfl)
  exact h.reaches_endedDone move { h with } geom0 rfl (h.inq.trans (if_pos eoi))

end

/-- `IMG.ENC` puts out what LZC has still to put out, and ends with `DONE`. -/
theorem reaches {d g bs : List Byte} {rest : List Beat} {s : State} (h : ImgEncAt d g bs rest s) :
    Reaches s (EndedDone s false (message (lzcRest d g s.lzc)) rest) := by
  induction work : pixelWork d bs s.lzc using Nat.strong_induction_on generalizing s g bs with
  | _ n ih =>
    subst work
    rcases lzc_choice s.lzc with full | ⟨notFull, ready⟩ | starved
    · obtain ⟨move, next, less⟩ := h.closed full
      rw [lzcRest_close (h.closes full) (l' := (lzcGroupReset s).lzc) rfl rfl rfl, ← List.cons_append, message_append]
      exact h.reaches_of_out move { h with } ((ih _ less next rfl).mono fun t ended => ended.after rfl)
    · obtain ⟨next, less⟩ := h.made notFull ready
      have inside : s.lzc.i < d.length := (h.present ready).1.trans_le h.nIn_le
      rw [← lzcRest_token (l' := (lzcTokenOn d s).lzc) inside (h.room notFull) rfl rfl rfl]
      exact h.reaches_of_move (h.token_move notFull ready) (ih _ less next rfl)
    cases eoi : s.lzc.eoi with
    | true =>
      rw [(h.complete_of_eoi starved eoi).2]
      exact h.finished starved eoi
    | false =>
      cases bs with
      | cons b bs =>
        obtain ⟨move, next, less⟩ := h.pixel_taken starved eoi
        exact h.reaches_of_move move (ih _ less next rfl)
      | nil =>
        obtain ⟨move, next, less⟩ := h.end_taken starved eoi
        exact h.reaches_of_move move (ih _ less next rfl)

end ImgEncAt

/-- FRA puts out the header of the snapshot's geometry, and goes to BODY (R190). -/
theorem imgEnc_header_move {s : State} (op : s.cfg.op = .imgEnc) (phase : s.fra.phase = .hdr) :
    (opMove s).LeadsTo (fraHeader (be32 s.cfg.width ++ be32 s.cfg.height) .body s) := by
  rw [opMove, op]
  simp only [imgEncMove, phase]
  rfl

/-- Settles O55: START puts FRA before the header, and RLU and LZC at their start values; after the header, what LZC has
still to put out is `LZ_COMP` of the RunStream of the pixels. -/
theorem runsImgEnc : Obligations.RunsImgEnc := by
  intro f s bs rest serves idle inq admitted fits
  refine ⟨acceptStart .imgEnc f s, startOp_idle idle.1 f, ?_⟩
  have start : UnderWay .imgEnc (acceptStart .imgEnc f s) := .acceptStart serves idle f
  generalize pixels : bs.map (binPixel (acceptStart .imgEnc f s).cfg) = bits
  have length : bits.length = bs.length := by rw [← pixels, List.length_map]
  obtain ⟨-, -, -, stream, -⟩ := runLengthEncodeWellFormed bits
  have body : ImgEncAt (rleEnc bits) [] bs rest
      (delivered (be32 s.width ++ be32 s.height)
        { acceptStart .imgEnc f s with fra := { Fra.init with hcnt := 8, phase := .body } }) :=
    { start with
      quiet := rfl, hbuf := rfl, nIn_le := Nat.zero_le _, i_le := le_rfl, gbuf := rfl, glen := rfl
      tokens := Nat.zero_le _
      ended := fun (no : false = true) => nomatch no
      encodes := .inl rfl, body := rfl, inq := inq, admitted := admitted
      pending := fun _ => by rw [← rluBytes_init, ← pixels]; rfl
      fits := by rw [length] at stream; exact stream.trans_lt fits }
  have block : lzcRest (rleEnc bits) [] Lzc.init = lzComp (rleEnc bits) := lzcRest_fresh rfl rfl
  rw [imgEnc, ← block, message_append]
  refine start.reaches_of_out (imgEnc_header_move rfl rfl) { start with } (body.reaches.mono fun t ended => ?_)
  exact ended.after rfl

end Sys2Proof.Machine
end

section
/-! PROOF. `IMG.DEC` (43_single_image.md R192 to R196): FPR stages the header byte by byte; then LZD decodes the rest of
the message and hands what it produces to RLD, which expands it and pads; so the machine computes `IMG_DEC`. Staging, and
decoding with RLD behind LZD, are stated for every operation that does so. -/

namespace Sys2Proof.Machine

/-! ### Staging -/

/-- The state in which FPR has staged these bytes, and `q` stands on IN after them (R34, R192). -/
def fprStaged (bs : List Byte) (q : List Beat) (s : State) : State :=
  { s with
    inq := q
    inTaken := s.inTaken + bs.length
    fpr := { s.fpr with stage := s.fpr.stage ++ bs, hcnt := s.fpr.hcnt + bs.length } }

namespace Parses

/-- While FPR takes a header or a length field, that is what the operation does. -/
theorem opMove_eq {n : Nat} {ctx : Ctx} {e : Exc} {s : State} (h : Parses s n ctx e)
    (going : s.cfg.op.usesRld = true → s.rld.ending = false) : opMove s = fprCollect n ctx e s := by
  cases h with
  | img op phase => exact opMove_imgDec_header op (going (by rw [op]; rfl)) phase
  | vid op phase => exact opMove_vidHdr op phase
  | len op phase => exact opMove_vidFrame_length op (going (by rw [op]; rfl)) phase

theorem staged {n : Nat} {ctx : Ctx} {e : Exc} {s : State} (h : Parses s n ctx e) (bs : List Byte) (q : List Beat) :
    Parses (fprStaged bs q s) n ctx e := by
  cases h with
  | img op phase => exact .img op phase
  | vid op phase => exact .vid op phase
  | len op phase => exact .len op phase

/-- FPR takes the next byte of a header or a length field. -/
theorem byte_move {n : Nat} {ctx : Ctx} {e : Exc} {s : State} {b : Byte} {q : List Beat} (h : Parses s n ctx e)
    (going : s.cfg.op.usesRld = true → s.rld.ending = false) (more : s.fpr.hcnt < n) (inq : s.inq = .data b :: q)
    (admitted : s.inTaken + 1 < Config.posLimit) : (opMove s).LeadsTo (fprStaged [b] q s) := by
  rw [h.opMove_eq going, fprCollect, if_neg more.not_ge, takeIn_data inq admitted]
  rfl

/-- A header or length field that stands whole in the stage is run. -/
theorem whole_move {n : Nat} {ctx : Ctx} {e : Exc} {i : Instr} {s t : State} (h : Parses s n ctx e)
    (going : s.cfg.op.usesRld = true → s.rld.ending = false) (whole : n ≤ s.fpr.hcnt)
    (read : decode ctx s.fpr.stage = .ok (i, [])) (run : exec i s = .next t) : (opMove s).LeadsTo t := by
  rwa [h.opMove_eq going, fprCollect_whole whole read]

end Parses

/-- FPR stages bytes of a header or a length field one after the other. -/
theorem UnderWay.reaches_staged {op : Op} {n : Nat} {ctx : Ctx} {e : Exc} {s : State} {P : State → Prop}
    (h : UnderWay op s) (parses : Parses s n ctx e) (going : s.cfg.op.usesRld = true → s.rld.ending = false)
    {bs : List Byte} {q : List Beat} (inq : s.inq = bs.map Beat.data ++ q) (room : s.fpr.hcnt + bs.length ≤ n)
    (admitted : s.inTaken + bs.length < Config.posLimit) (run : Reaches (fprStaged bs q s) P) : Reaches s P := by
  induction bs generalizing s with
  | nil =>
    obtain rfl : s.inq = q := inq
    simpa [fprStaged] using run
  | cons b bs ih =>
    rw [List.length_cons] at room admitted
    refine h.reaches_of_move (parses.byte_move going (by omega) inq (by omega)) ?_
    refine ih { h with } (parses.staged _ _) going rfl ?_ ?_ ?_
    · simp only [fprStaged, List.length_singleton]
      omega
    · simp only [fprStaged, List.length_singleton]
      omega
    · simpa [fprStaged, Nat.add_assoc, Nat.add_comm 1] using run

/-! ### RLD behind LZD -/

theorem Op.usesRld_of_lzdFeedsRld {op : Op} (feeds : op.lzdFeedsRld = true) : op.usesRld = true := by
  cases op with
  | imgDec | vidFrame => rfl
  | _ => cases feeds

theorem rldBytes_append (as bs : List Byte) (r : Rld) :
    rldBytes (as ++ bs) r =
      ((rldBytes bs (rldBytes as r).1).1, (rldBytes as r).2 ++ (rldBytes bs (rldBytes as r).1).2) := by
  induction as generalizing r with
  | nil => rfl
  | cons a as ih => simp only [List.cons_append, rldBytes, ih, List.append_assoc]

theorem rldByte_total (b : Byte) (r : Rld) : (rldByte b r).1.total = r.total := by
  rw [rldByte]
  split <;> rfl

/-- Bytes that RLD takes do not change its total, and do not end its input. -/
theorem rldBytes_frame (bs : List Byte) (r : Rld) :
    (rldBytes bs r).1.total = r.total ∧ (rldBytes bs r).1.ending = r.ending := by
  induction bs generalizing r with
  | nil => exact ⟨rfl, rfl⟩
  | cons b bs ih =>
    obtain ⟨total, ending⟩ := ih (rldByte b r).1
    exact ⟨total.trans (rldByte_total b r), ending.trans (rldByte_ending b r)⟩

/-- With RLD behind LZD, what LZD produces goes to RLD, whose elements go to OUT (R192, 44_multi_frame.md R206). -/
theorem lzdPassAll_feeding {s : State} (feeds : s.cfg.op.lzdFeedsRld = true) (new : List Byte) (m : Memory) (l : Lzd) :
    { lzdPassAll new s with dhist := m, lzd := l } =
      outBytes (rldBytes new s.rld).2 { s with rld := (rldBytes new s.rld).1, dhist := m, lzd := l } := by
  rw [lzdPassAll_rld feeds]
  rfl

/-- The state in which LZD has produced these bytes, with its registers and the history after it, RLD has taken them, and
the host has received their elements. -/
def lzdDelivered (new : List Byte) (m : Memory) (l : Lzd) (s : State) : State :=
  delivered (rldBytes new s.rld).2 { s with rld := (rldBytes new s.rld).1, dhist := m, lzd := l }

/-- A container operation is in DECODE since `s0`: LZD stands in a block whose output is `d`, has produced `out` and has
still to take `bs`; RLD has taken `out`, and the host has received its elements. -/
structure DecodeAt (op : Op) (d out bs : List Byte) (s0 s : State) : Prop
    extends UnderWay op s, LzdAt d out bs s.lzd s.dhist where
  feeds : op.lzdFeedsRld = true
  decoding : s.fpr.phase = .decode
  started : s0.rld.ending = false
  rld : s.rld = (rldBytes out s0.rld).1
  received : s.received = s0.received ++ (rldBytes out s0.rld).2.map Beat.data
  width : s.width = s0.width
  height : s.height = s0.height
  fidx : s.fidx = s0.fidx

/-- `WIDTH` and `HEIGHT` are as they were, and so is `FRAME_IDX` but for a `VID.FRAME`, which counts its frame (R27). -/
def RegistersKept (op : Op) (s0 t : State) : Prop :=
  t.width = s0.width ∧ t.height = s0.height ∧ t.fidx = if op = .vidFrame then s0.fidx + 1 else s0.fidx

namespace DecodeAt

theorem going {op : Op} {d out bs : List Byte} {s0 s : State} (h : DecodeAt op d out bs s0 s) :
    s.rld.ending = false := by
  rw [h.rld, (rldBytes_frame out s0.rld).2, h.started]

/-- A move of LZD: what it produces goes through RLD to the host, and the operation decodes on. -/
theorem reaches_of_passed {op : Op} {d out bs bs' new : List Byte} {s0 s : State} {m : Memory} {l : Lzd} {q : List Beat}
    {taken : Nat} {P : State → Prop} (h : DecodeAt op d out bs s0 s)
    (move : (opMove s).LeadsTo { lzdPassAll new { s with inq := q, inTaken := taken } with dhist := m, lzd := l })
    (next : LzdAt d (out ++ new) bs' l m)
    (run : DecodeAt op d (out ++ new) bs' s0 (lzdDelivered new m l { s with inq := q, inTaken := taken }) →
      Reaches (lzdDelivered new m l { s with inq := q, inTaken := taken }) P) : Reaches s P := by
  have feeds : s.cfg.op.lzdFeedsRld = true := h.op_eq.symm ▸ h.feeds
  have passed := lzdPassAll_feeding (s := { s with inq := q, inTaken := taken }) feeds new m l
  rw [passed] at move
  refine h.reaches_of_out move { h with } (run { h with toLzdAt := next, quiet := rfl, rld := ?_, received := ?_ })
  · rw [rldBytes_append, ← h.rld]
    rfl
  · simp [lzdDelivered, delivered, h.received, rldBytes_append, ← h.rld]

/-- At the end of the block RLD pads to its total, and the operation ends with `DONE` (R192, R196, 44_multi_frame.md
R206). -/
theorem reaches_of_end {op : Op} {d out : List Byte} {s0 s : State} {rest : List Beat} {taken : Nat}
    (h : DecodeAt op d out [] s0 s) (taking : s.lzd.phase ≠ .copy)
    (move : (opMove s).LeadsTo (rldInputEnd { s with inq := rest, inTaken := taken })) :
    Reaches s fun t =>
      EndedDone s0 (s0.rld.total == 0) (message (rldOutput d s0.rld)) rest t ∧ RegistersKept op s0 t := by
  have ended : UnderWay op (rldInputEnd { s with inq := rest, inTaken := taken }) := { h with }
  have total : s.rld.total = s0.rld.total := by rw [h.rld, (rldBytes_frame out s0.rld).1]
  have geometry : zeroGeometry (rldInputEnd { s with inq := rest, inTaken := taken }) = (s0.rld.total == 0) := by
    rw [← total, zeroGeometry, ended.op_eq, h.feeds]
    rfl
  have output : message (rldOutput d s0.rld) =
      (rldBytes out s0.rld).2.map Beat.data ++ message (rldPadding s.rld) := by
    rw [← h.output_eq taking, rldOutput, message_append, ← h.rld]
  have uses := Op.usesRld_of_lzdFeedsRld h.feeds
  refine h.reaches_of_move move (ended.reaches_rldPadded uses rfl ⟨?_, h.width, h.height, ?_⟩)
  · rw [← geometry, output]
    exact ended.rldPadded_endedDone.after h.received
  · rw [← h.fidx, ← h.op_eq]
    rfl

end DecodeAt

/-! ### IMG.DEC -/

/-- `IMG.DEC` is in DECODE since `s0`: what is left of the block is what is left of the message. -/
structure ImgDecAt (d out bs : List Byte) (rest : List Beat) (s0 s : State) : Prop
    extends DecodeAt .imgDec d out bs s0 s where
  inq : s.inq = message bs ++ rest
  admitted : s.inTaken + bs.length < Config.posLimit

namespace ImgDecAt

/-- At the beginning of the block LZD stands at its start values. -/
theorem init {payload : List Byte} {rest : List Beat} {s : State} (h : UnderWay .imgDec s)
    (decoding : s.fpr.phase = .decode) (started : s.rld.ending = false) (lzd : s.lzd = .init) (dhist : s.dhist = [])
    (inq : s.inq = message payload ++ rest) (admitted : s.inTaken + payload.length < Config.posLimit)
    (fits : (lzDecomp payload).length < Config.posLimit) : ImgDecAt (lzDecomp payload) [] payload rest s s where
  toUnderWay := h
  toLzdAt := by
    rw [lzd, dhist]
    exact .init ((Nat.le_add_left _ _).trans_lt admitted) fits
  feeds := rfl
  decoding := decoding
  started := started
  rld := rfl
  received := (List.append_nil _).symm
  width := rfl
  height := rfl
  fidx := rfl
  inq := inq
  admitted := admitted

theorem opMove_eq {d out bs : List Byte} {rest : List Beat} {s0 s : State} (h : ImgDecAt d out bs rest s0 s) :
    opMove s = lzdMove s (takeIn s lzdByte (fun s => .unit (.next (rldInputEnd s)))) :=
  opMove_imgDec h.op_eq h.going h.decoding

theorem opMove_taking {d out bs : List Byte} {rest : List Beat} {s0 s : State} (h : ImgDecAt d out bs rest s0 s)
    (taking : s.lzd.phase ≠ .copy) : opMove s = takeIn s lzdByte (fun s => .unit (.next (rldInputEnd s))) :=
  h.opMove_eq.trans (if_neg taking)

/-- A back-reference that is whole is copied before a byte is taken. -/
theorem reaches_of_taking {d out bs : List Byte} {rest : List Beat} {s0 s : State} {P : State → Prop}
    (h : ImgDecAt d out bs rest s0 s)
    (run : ∀ {out s}, ImgDecAt d out bs rest s0 s → s.lzd.phase ≠ .copy → Reaches s P) : Reaches s P := by
  by_cases phase : s.lzd.phase = .copy
  · obtain ⟨new, m, l, move, next, taking⟩ :=
      h.copy_move phase (takeIn s lzdByte (fun s => .unit (.next (rldInputEnd s))))
    rw [← h.opMove_eq] at move
    refine h.reaches_of_passed (q := s.inq) (taken := s.inTaken) move next fun decoding => ?_
    exact run { decoding with inq := h.inq, admitted := h.admitted } taking
  · exact run h phase

/-- LZD takes a byte of the block, and what RLD makes of its output is delivered. -/
theorem reaches_of_byte {d out bs : List Byte} {b : Byte} {rest : List Beat} {s0 s : State} {P : State → Prop}
    (h : ImgDecAt d out (b :: bs) rest s0 s) (taking : s.lzd.phase ≠ .copy)
    (run : ∀ {out s}, ImgDecAt d out bs rest s0 s → Reaches s P) : Reaches s P := by
  have admitted := h.admitted
  rw [List.length_cons] at admitted
  have inq : s.inq = .data b :: (message bs ++ rest) := h.inq
  obtain ⟨new, m, l, move, next⟩ :=
    LzdAt.byte_move (s := { s with inq := message bs ++ rest, inTaken := s.inTaken + 1 }) h.toLzdAt taking
  rw [← takeIn_data inq (by omega) lzdByte, ← h.opMove_taking taking] at move
  refine h.reaches_of_passed move next fun decoding => run { decoding with inq := rfl, admitted := ?_ }
  exact (Nat.add_right_comm _ 1 _).trans_lt admitted

/-- `IMG.DEC` puts out what RLD makes of the output of the block, and ends with `DONE`. -/
theorem reaches {d out bs : List Byte} {rest : List Beat} {s0 s : State} (h : ImgDecAt d out bs rest s0 s) :
    Reaches s fun t =>
      EndedDone s0 (s0.rld.total == 0) (message (rldOutput d s0.rld)) rest t ∧
        RegistersKept .imgDec s0 t := by
  induction bs generalizing out s with
  | nil =>
    refine h.reaches_of_taking fun {out s} h taking => h.reaches_of_end taking (taken := 0) ?_
    rw [h.opMove_taking taking, takeIn_fin h.inq]
    rfl
  | cons b bs ih => exact h.reaches_of_taking fun h taking => h.reaches_of_byte taking ih

end ImgDecAt

/-- The state in which the header has been run (R192, R195). -/
def imgHeaderTaken (w h : Word) (s : State) : State :=
  { s with
    width := w, height := h, rld := { s.rld with total := totalBits w h }, fpr := { s.fpr with phase := .decode } }

/-- From the beginning of its message `IMG.DEC` stages a whole header, and runs it (R192). -/
theorem UnderWay.reaches_imgHeaderTaken {w h : Word} {q : List Beat} {s : State} {P : State → Prop}
    (underWay : UnderWay .imgDec s) (fpr : s.fpr = { Fpr.init with phase := .hdr }) (going : s.rld.ending = false)
    (inq : s.inq = (be32 w ++ be32 h).map Beat.data ++ q) (admitted : s.inTaken + 8 < Config.posLimit)
    (run : Reaches (imgHeaderTaken w h (fprStaged (be32 w ++ be32 h) q s)) P) : Reaches s P := by
  have parses : Parses s 8 .imgHeader .malformedHeader := .img underWay.op_eq (by rw [fpr])
  have read : decode .imgHeader (be32 w ++ be32 h) = .ok (.imgHeader w h, []) :=
    decodeOfEncode (.imgHeader w h) [] rfl
  obtain ⟨hcnt, stage⟩ : s.fpr.hcnt = 0 ∧ s.fpr.stage = [] := by rw [fpr]; exact ⟨rfl, rfl⟩
  have staged : UnderWay .imgDec (fprStaged (be32 w ++ be32 h) q s) := { underWay with }
  refine underWay.reaches_staged parses (fun _ => going) inq (by rw [hcnt]; rfl) admitted ?_
  refine staged.reaches_of_move ((parses.staged _ _).whole_move (i := .imgHeader w h) (fun _ => going) ?_ ?_ rfl) run
  · exact Nat.le_add_left _ _
  · rwa [fprStaged, stage]

/-- Settles O56: START puts FPR before the header, and LZD and RLD at their start values; the header gives RLD its total,
and from there the elements of the block's output are put out, cut or padded to the total. -/
theorem runsImgDec : Obligations.RunsImgDec := by
  intro f s w h payload rest serves idle inq admitted fits
  refine ⟨acceptStart .imgDec f s, startOp_idle idle.1 f, ?_⟩
  rw [message_append, List.append_assoc] at inq
  have start : UnderWay .imgDec (acceptStart .imgDec f s) := .acceptStart serves idle f
  have decoding := ImgDecAt.init (rest := rest)
    (s := imgHeaderTaken w h (fprStaged (be32 w ++ be32 h) (message payload ++ rest) (acceptStart .imgDec f s)))
    { start with } rfl rfl rfl rfl rfl admitted fits
  refine start.reaches_imgHeaderTaken rfl rfl inq ((Nat.le_add_right _ payload.length).trans_lt admitted) ?_
  refine decoding.reaches.mono fun t ⟨ended, width, height, _⟩ => ⟨?_, width, height⟩
  rw [← totalBits_toNat, ← rldOutput_init, ← totalBits_beq_zero]
  exact ended.after (sent := []) (List.append_nil _).symm

end Sys2Proof.Machine
end

section
/-! PROOF. The multi-frame container as functions (44_multi_frame.md R200, R206, R213, R214): a file is its header and
the records, and a record decodes to its frame. -/

namespace Sys2Proof.Machine

/-- The file begins with the bytes of its header, and the records follow (R200). -/
theorem vidEnc_eq_header_append (frames : List (List (BitVec 1))) (w h : BitVec 16) (rate : Word) :
    vidEnc frames w h rate =
      encode (.vidHeader w h rate (BitVec.ofNat 32 frames.length)) ++ frames.flatMap frameRecord := rfl

theorem frameRecord_length (bits : List (BitVec 1)) :
    (frameRecord bits).length = 4 + (lzComp (rleEnc bits)).length := List.length_append

/-- The payload of a record decodes to the frame, where the geometry has as many pixels (R213). -/
theorem vidFrame_of_frame {bits : List (BitVec 1)} {w h : BitVec 16} (whole : bits.length = w.toNat * h.toNat) :
    vidFrame (lzComp (rleEnc bits)) w h = bits.map (BitVec.setWidth 8) := by
  rw [vidFrame, windowRoundTrip, ← whole, runLengthRoundTrip]

/-- Settles O50: the header and the length fields by the round trip of the codec, a payload by those of the window codec
and of the run-length codec. -/
theorem videoRoundTrip : Obligations.VideoRoundTrip := by
  refine ⟨fun frames w h rate _ => ⟨decodeOfEncode (.vidHeader w h rate _) _ rfl, ?_⟩,
    fun bits w h rest whole fits => ⟨BitVec.ofNat 32 (lzComp (rleEnc bits)).length, lzComp (rleEnc bits), ?_, ?_, ?_⟩⟩
  · rw [vidEnc_eq_header_append, List.length_append, List.length_flatMap]
    simp only [frameRecord_length]
    rfl
  · rw [frameRecord, List.append_assoc]
    exact decodeOfEncode (.frameLen _) _ rfl
  · exact BitVec.toNat_ofNat _ _ |>.trans (Nat.mod_eq_of_lt fits)
  · exact vidFrame_of_frame whole

end Sys2Proof.Machine
end

section
/-! PROOF. `VID.HDR` (44_multi_frame.md R205): FPR stages the twelve bytes of the header, which then is run and ends the
operation. -/

namespace Sys2Proof.Machine

/-- From the beginning of a header or a length field FPR stages it whole, and it is run (R34, R205, R206). -/
theorem UnderWay.reaches_of_field {op : Op} {n : Nat} {e : Exc} {i : Instr} {q : List Beat} {s t : State}
    {P : State → Prop} (h : UnderWay op s) (parses : Parses s n i.ctx e)
    (going : s.cfg.op.usesRld = true → s.rld.ending = false) (wf : i.wf = true) (size : (encode i).length = n)
    (hcnt : s.fpr.hcnt = 0) (stage : s.fpr.stage = []) (inq : s.inq = (encode i).map Beat.data ++ q)
    (admitted : s.inTaken + n < Config.posLimit) (run : exec i (fprStaged (encode i) q s) = .next t)
    (reach : Reaches t P) : Reaches s P := by
  have staged : UnderWay op (fprStaged (encode i) q s) := { h with }
  have counted : (fprStaged (encode i) q s).fpr.hcnt = n := by
    rw [← size, ← Nat.zero_add (encode i).length, ← hcnt]
    rfl
  have read : decode i.ctx (fprStaged (encode i) q s).fpr.stage = .ok (i, []) := by
    have whole := decodeOfEncode i [] wf
    rw [List.append_nil] at whole
    rwa [fprStaged, stage]
  refine h.reaches_staged parses going inq (by omega) (size ▸ admitted) ?_
  exact staged.reaches_of_move ((parses.staged _ _).whole_move going counted.ge read run) reach

/-- Settles O58: START puts FPR before the header, whose twelve bytes are staged and run. -/
theorem runsVidHdr : Obligations.RunsVidHdr := by
  intro f s w h rate count rest serves idle inq admitted
  refine ⟨acceptStart .vidHdr f s, startOp_idle idle.1 f, ?_⟩
  have start : UnderWay .vidHdr (acceptStart .vidHdr f s) := .acceptStart serves idle f
  have width (v : BitVec 16) : (v.setWidth 32).toNat = v.toNat := BitVec.toNat_setWidth_of_le (by decide)
  refine start.reaches_of_field (i := .vidHeader w h rate count) (.vid rfl rfl) nofun rfl rfl rfl rfl inq admitted rfl
    (.here ⟨⟨rfl, idle.2, (List.append_nil _).symm, rfl⟩, width w, width h, rfl, rfl, rfl⟩)

end Sys2Proof.Machine
end

section
/-! PROOF. `VID.FRAME` (44_multi_frame.md R206, R209, R212): FPR stages the length field and puts the payload into PBUF;
then LZD decodes PBUF and hands what it produces to RLD, which expands it and pads; so the machine computes
`VID_FRAME`. -/

namespace Sys2Proof.Machine

/-! ### The payload goes into PBUF -/

/-- The state in which FPR has put these payload bytes into PBUF, and `q` stands on IN after them (R206). -/
def payloadStored (bs : List Byte) (q : List Beat) (s : State) : State :=
  { s with
    inq := q
    inTaken := s.inTaken + bs.length
    pbuf := Memory.writeAll s.pbuf s.fpr.got bs
    fpr := { s.fpr with got := s.fpr.got + bs.length } }

theorem opMove_vidFrame_payload {s : State} (op : s.cfg.op = .vidFrame) (going : s.rld.ending = false)
    (phase : s.fpr.phase = .payload) :
    opMove s =
      if s.fpr.need.toNat ≤ s.fpr.got then .unit (.next (fprPayloadDone s))
      else
        takeIn s (fun b s => .unit (fprPayloadByte b s))
          (fun s => .unit (.next (raiseExc .truncatedPayload s))) := by
  rw [opMove, op]
  simp only [vidFrameMove, going, phase]
  rfl

theorem payload_byte_move {s : State} {b : Byte} {q : List Beat} (op : s.cfg.op = .vidFrame)
    (going : s.rld.ending = false) (phase : s.fpr.phase = .payload) (more : s.fpr.got < s.fpr.need.toNat)
    (room : s.fpr.got < s.pbufBytes) (inq : s.inq = .data b :: q) (admitted : s.inTaken + 1 < Config.posLimit) :
    (opMove s).LeadsTo (payloadStored [b] q s) := by
  rw [opMove_vidFrame_payload op going phase, if_neg more.not_ge, takeIn_data inq admitted, fprPayloadByte,
    if_neg room.not_ge]
  rfl

theorem payload_done_move {s : State} (op : s.cfg.op = .vidFrame) (going : s.rld.ending = false)
    (phase : s.fpr.phase = .payload) (whole : s.fpr.need.toNat ≤ s.fpr.got) :
    (opMove s).LeadsTo (fprPayloadDone s) := by
  rw [opMove_vidFrame_payload op going phase, if_pos whole]
  rfl

/-- FPR puts payload bytes into PBUF one after the other. -/
theorem UnderWay.reaches_payloadStored {s : State} {P : State → Prop} {bs : List Byte} {q : List Beat}
    (h : UnderWay .vidFrame s) (going : s.rld.ending = false) (phase : s.fpr.phase = .payload)
    (inq : s.inq = bs.map Beat.data ++ q) (declared : s.fpr.got + bs.length ≤ s.fpr.need.toNat)
    (room : s.fpr.got + bs.length ≤ s.pbufBytes) (admitted : s.inTaken + bs.length < Config.posLimit)
    (run : Reaches (payloadStored bs q s) P) : Reaches s P := by
  induction bs generalizing s with
  | nil =>
    obtain rfl : s.inq = q := inq
    exact run
  | cons b bs ih =>
    rw [List.length_cons] at declared room admitted
    refine h.reaches_of_move
      (payload_byte_move h.op_eq going phase (by omega) (by omega) inq (by omega)) ?_
    refine ih { h with } going phase rfl ?_ ?_ ?_ ?_
    · exact (Nat.add_right_comm _ 1 _).trans_le declared
    · exact (Nat.add_right_comm _ 1 _).trans_le room
    · exact (Nat.add_right_comm _ 1 _).trans_lt admitted
    · simpa [payloadStored, Memory.writeAll, Nat.add_assoc, Nat.add_comm 1] using run

/-! ### LZD's count of the bytes it has taken -/

/-- What LZD does with a byte it has counted does not count another. -/
theorem LzdByteStep.p_eq {b : Byte} {s t : State} (h : LzdByteStep b s t) : t.lzd.p = s.lzd.p := by
  cases h with
  | flag phase => rfl
  | literal phase bit run =>
    obtain ⟨u, emit, done⟩ := andThen_eq_next.1 run
    cases done
    have emitted := congrArg Lzd.p (lzd_of_lzdEmit emit)
    exact emitted
  | parse phase bit =>
    have parsed := congrArg Lzd.p (lzdParse_frame b s.lzd)
    exact parsed

/-- A back-reference takes no byte of the block. -/
theorem LzdReferenceStep.p_eq {s t : State} (h : LzdReferenceStep s t) : t.lzd.p = s.lzd.p := by
  cases h with
  | copy phase run =>
    obtain ⟨u, copy, done⟩ := andThen_eq_next.1 run
    cases done
    obtain ⟨-, -, kept⟩ := lzdCopy_induction (P := fun _ u => u.lzd.p = s.lzd.p) (m := 0)
      (fun _ _ _ _ kept emit => (congrArg Lzd.p (lzd_of_lzdEmit emit)).trans kept) (by rfl) copy
    exact kept
  | drop phase => rfl

theorem lzdByte_p_eq {b : Byte} {s t : State} (move : (lzdByte b s).LeadsTo t) : t.lzd.p = s.lzd.p + 1 :=
  (lzdByte_leadsTo move).2.p_eq

theorem lzdMove_p_eq {s t : State} {next : Move} (phase : s.lzd.phase = .copy) (move : (lzdMove s next).LeadsTo t) :
    t.lzd.p = s.lzd.p := by
  rcases lzdMove_leadsTo move with step | ⟨taking, -⟩
  · exact step.p_eq
  · exact absurd phase taking

/-! ### Decoding PBUF -/

/-- `VID.FRAME` is in DECODE since `s0`: PBUF holds the payload, and what is left of the block is what LZD has not taken
of it; IN is left alone. -/
structure VidFrameAt (payload d out bs : List Byte) (rest : List Beat) (s0 s : State) : Prop
    extends DecodeAt .vidFrame d out bs s0 s where
  pbuf : s.pbuf = Memory.ofBytes payload
  need : s.fpr.need.toNat = payload.length
  left : payload.drop s.lzd.p = bs
  inq : s.inq = rest

namespace VidFrameAt

/-- At the beginning of the block LZD stands at its start values. -/
theorem init {payload : List Byte} {rest : List Beat} {s : State} (h : UnderWay .vidFrame s)
    (decoding : s.fpr.phase = .decode) (started : s.rld.ending = false) (lzd : s.lzd = .init) (dhist : s.dhist = [])
    (pbuf : s.pbuf = Memory.ofBytes payload) (need : s.fpr.need.toNat = payload.length) (inq : s.inq = rest)
    (fits : (lzDecomp payload).length < Config.posLimit) :
    VidFrameAt payload (lzDecomp payload) [] payload rest s s where
  toUnderWay := h
  toLzdAt := by
    have short : payload.length < 2 ^ 32 := need ▸ s.fpr.need.isLt
    rw [lzd, dhist]
    exact .init (short.trans (by decide)) fits
  feeds := rfl
  decoding := decoding
  started := started
  rld := rfl
  received := (List.append_nil _).symm
  width := rfl
  height := rfl
  fidx := rfl
  pbuf := pbuf
  need := need
  left := by rw [lzd]; rfl
  inq := inq

section
variable {payload d out bs : List Byte} {b : Byte} {rest : List Beat} {s0 s : State}

theorem opMove_eq (h : VidFrameAt payload d out bs rest s0 s) : opMove s = lzdMove s (lzdFromPbuf s) :=
  opMove_vidFrame h.op_eq h.going h.decoding

theorem opMove_taking (h : VidFrameAt payload d out bs rest s0 s) (taking : s.lzd.phase ≠ .copy) :
    opMove s = lzdFromPbuf s :=
  h.opMove_eq.trans (if_neg taking)

theorem opMove_byte (h : VidFrameAt payload d out (b :: bs) rest s0 s) (taking : s.lzd.phase ≠ .copy) :
    opMove s = lzdByte b s := by
  have next : payload[s.lzd.p]? = some b := by rw [← List.head?_drop, h.left, List.head?_cons]
  have more : s.lzd.p < s.fpr.need.toNat := h.need ▸ (List.getElem?_eq_some_iff.1 next).1
  rw [h.opMove_taking taking, lzdFromPbuf, if_pos more, h.pbuf]
  simp only [Memory.read_ofBytes, next]

theorem opMove_end (h : VidFrameAt payload d out [] rest s0 s) (taking : s.lzd.phase ≠ .copy) :
    opMove s = .unit (.next (rldInputEnd s)) := by
  have all : ¬s.lzd.p < s.fpr.need.toNat := h.need ▸ (List.drop_eq_nil_iff.1 h.left).not_gt
  rw [h.opMove_taking taking, lzdFromPbuf, if_neg all]

/-- A back-reference that is whole is copied before a byte is taken. -/
theorem reaches_of_taking {P : State → Prop} (h : VidFrameAt payload d out bs rest s0 s)
    (run : ∀ {out s}, VidFrameAt payload d out bs rest s0 s → s.lzd.phase ≠ .copy → Reaches s P) : Reaches s P := by
  by_cases phase : s.lzd.phase = .copy
  · obtain ⟨new, m, l, move, next, taking⟩ := h.copy_move phase (lzdFromPbuf s)
    have taken : l.p = s.lzd.p := lzdMove_p_eq phase move
    rw [← h.opMove_eq] at move
    refine h.reaches_of_passed (q := s.inq) (taken := s.inTaken) move next fun decoding => ?_
    exact run { decoding with pbuf := h.pbuf, need := h.need, left := taken ▸ h.left, inq := h.inq } taking
  · exact run h phase

/-- LZD takes a byte of PBUF, and what RLD makes of its output is delivered. -/
theorem reaches_of_byte {P : State → Prop} (h : VidFrameAt payload d out (b :: bs) rest s0 s)
    (taking : s.lzd.phase ≠ .copy) (run : ∀ {out s}, VidFrameAt payload d out bs rest s0 s → Reaches s P) :
    Reaches s P := by
  obtain ⟨new, m, l, move, next⟩ := h.byte_move taking
  have taken : l.p = s.lzd.p + 1 := lzdByte_p_eq move
  have left : payload.drop l.p = bs := by rw [taken, ← List.drop_drop, h.left, List.drop_one, List.tail_cons]
  rw [← h.opMove_byte taking] at move
  refine h.reaches_of_passed (q := s.inq) (taken := s.inTaken) move next fun decoding => ?_
  exact run { decoding with pbuf := h.pbuf, need := h.need, left := left, inq := h.inq }

/-- `VID.FRAME` puts out what RLD makes of the output of the block, and ends with `DONE`. -/
theorem reaches (h : VidFrameAt payload d out bs rest s0 s) :
    Reaches s fun t =>
      EndedDone s0 (s0.rld.total == 0) (message (rldOutput d s0.rld)) rest t ∧ RegistersKept .vidFrame s0 t := by
  induction bs generalizing out s with
  | nil =>
    refine h.reaches_of_taking fun {out s} h taking => h.reaches_of_end taking (taken := s.inTaken) ?_
    rw [h.opMove_end taking, ← h.inq]
    rfl
  | cons b bs ih => exact h.reaches_of_taking fun h taking => h.reaches_of_byte taking ih

end

end VidFrameAt

/-! ### VID.FRAME -/

/-- The state in which the length field has been run (R206). -/
def frameLenTaken (n : Word) (s : State) : State := { s with fpr := { s.fpr with need := n, phase := .payload } }

theorem low16_eq_setWidth (w : Word) : low16 w = w.setWidth 16 := (BitVec.setWidth_eq_extractLsb' (by decide)).symm

/-- Widening does not make a zero (60_exceptions.md R233). -/
theorem setWidth_beq_zero (v : BitVec 16) : (v.setWidth 32 == 0) = (v == 0) := by
  rw [Bool.eq_iff_iff, beq_iff_eq, beq_iff_eq, BitVec.toNat_eq, BitVec.toNat_eq,
    BitVec.toNat_setWidth_of_le (by decide)]
  rfl

/-- From the end of the length field `VID.FRAME` takes the payload and puts out the elements of the frame (R206). -/
theorem UnderWay.reaches_frame {payload : List Byte} {rest : List Beat} {s : State} (h : UnderWay .vidFrame s)
    (phase : s.fpr.phase = .payload) (got : s.fpr.got = 0) (pbuf : s.pbuf = []) (lzd : s.lzd = .init)
    (dhist : s.dhist = []) (rld : s.rld = .init) (need : s.fpr.need.toNat = payload.length)
    (room : payload.length ≤ s.pbufBytes) (inq : s.inq = payload.map Beat.data ++ rest)
    (admitted : s.inTaken + payload.length < Config.posLimit) (fits : (lzDecomp payload).length < Config.posLimit) :
    Reaches s fun t =>
      EndedDone s (low16 s.cfg.width == 0 || low16 s.cfg.height == 0)
        (message (vidFrame payload (low16 s.cfg.width) (low16 s.cfg.height))) rest t ∧ t.fidx = s.fidx + 1 := by
  have going : s.rld.ending = false := by rw [rld]; rfl
  have start : s.fpr.got + payload.length = payload.length := by rw [got, Nat.zero_add]
  have stored : UnderWay .vidFrame (payloadStored payload rest s) := { h with }
  have filled : (payloadStored payload rest s).pbuf = Memory.ofBytes payload := by
    rw [payloadStored, pbuf, got]
    exact Memory.writeAll_ofBytes [] payload
  have decoding := VidFrameAt.init (s := fprPayloadDone (payloadStored payload rest s)) { stored with } rfl going lzd
    dhist filled need rfl fits
  have total := rldOutput_init (lzDecomp payload)
    (totalBits ((low16 s.cfg.width).setWidth 32) ((low16 s.cfg.height).setWidth 32))
  rw [(totalIsExactProduct.2 _ _).1, ← rld] at total
  refine h.reaches_payloadStored going phase inq (start.trans need.symm).le (start.trans_le room) admitted ?_
  refine stored.reaches_of_move (payload_done_move stored.op_eq going phase (need.trans start.symm).le) ?_
  refine decoding.reaches.mono fun t ⟨ended, _, _, counted⟩ => ⟨?_, counted⟩
  rw [vidFrame, ← total, ← setWidth_beq_zero, ← setWidth_beq_zero (low16 s.cfg.height), ← totalBits_beq_zero]
  exact ended.after (sent := []) (List.append_nil _).symm

/-- Settles O59: START puts FPR before the length field, and LZD and RLD at their start values; the length field is
staged and run, and the payload is taken and decoded. -/
theorem runsVidFrame : Obligations.RunsVidFrame := by
  intro f s payload rest serves idle short room admitted fits inq
  refine ⟨acceptStart .vidFrame f s, startOp_idle idle.1 f, ?_⟩
  have start : UnderWay .vidFrame (acceptStart .vidFrame f s) := .acceptStart serves idle f
  rw [List.map_append, List.append_assoc] at inq
  have declared : (BitVec.ofNat 32 payload.length).toNat = payload.length :=
    BitVec.toNat_ofNat _ _ |>.trans (Nat.mod_eq_of_lt short)
  refine start.reaches_of_field (i := .frameLen (BitVec.ofNat 32 payload.length)) (.len rfl rfl) (fun _ => rfl) rfl rfl
    rfl rfl inq ((Nat.le_add_right _ payload.length).trans_lt admitted) rfl ?_
  have taken := UnderWay.reaches_frame (payload := payload) (rest := rest)
    (s := frameLenTaken (BitVec.ofNat 32 payload.length)
      (fprStaged (be32 (BitVec.ofNat 32 payload.length)) (payload.map Beat.data ++ rest) (acceptStart .vidFrame f s)))
    { start with } rfl rfl rfl rfl rfl rfl declared room rfl admitted fits
  refine taken.mono fun t ⟨ended, counted⟩ => ⟨?_, counted⟩
  rw [← low16_eq_setWidth, ← low16_eq_setWidth]
  exact ended.after (sent := []) (List.append_nil _).symm

end Sys2Proof.Machine
end

section
/-! PROOF. `VID.ENC` (44_multi_frame.md R200 to R204): the pipeline of both containers, with the block going into PBUF;
then the record is put out, and the units start afresh for the next frame; so the machine computes `VID_ENC`. -/

namespace Sys2Proof.Machine

/-! ### The block of a frame goes into PBUF -/

/-- What VID.ENC leaves alone while it takes in a frame. -/
structure FileKept (s0 s : State) : Prop where
  cfg : s.cfg = s0.cfg
  fidx : s.fidx = s0.fidx
  pbufBytes : s.pbufBytes = s0.pbufBytes
  received : s.received = s0.received
  pout : s.fra.pout = s0.fra.pout

/-- `VID.ENC` stands in BODY inside a frame since `s0` (R201): PBUF holds `p`, which is what LZC has put out of the
block `cb`. -/
structure BlockAt (cb p d g bs : List Byte) (rest : List Beat) (s0 s : State) : Prop
    extends PixelsAt .vidEnc d g bs rest s, FileKept s0 s where
  pbuf : s.pbuf = Memory.ofBytes p
  plen : s.fra.plen = p.length
  block : p ++ lzcRest d g s.lzc = cb
  capacity : cb.length ≤ s.pbufBytes
  short : cb.length < Config.blockLimit
  messageEnd : s.lzc.eoi = true → s.inTaken = 0

/-- `VID.ENC` has the block `cb` of a frame whole in PBUF, and the message of the frame has been taken since `s0` (R201,
R202). -/
structure BlockReady (cb : List Byte) (rest : List Beat) (s0 s : State) : Prop
    extends UnderWay .vidEnc s, FileKept s0 s where
  phase : s.fra.phase = .len
  pbuf : s.pbuf = Memory.ofBytes cb
  plen : s.fra.plen = cb.length
  inq : s.inq = rest
  messageEnd : s.inTaken = 0

/-- The state in which LZC has put these bytes into PBUF (R201). -/
def pbufStored (new : List Byte) (s : State) : State :=
  { s with
    pbuf := Memory.writeAll s.pbuf s.fra.plen new, fra := { s.fra with plen := s.fra.plen + new.length } }

namespace BlockAt

section
variable {cb p d g bs : List Byte} {rest : List Beat} {s0 s : State}

theorem closed (h : BlockAt cb p d g bs rest s0 s) (full : lzcGroupFull s.lzc = true) :
    (opMove s).LeadsTo (lzcGroupReset (pbufStored (s.lzc.flag :: g) s)) ∧
      BlockAt cb (p ++ s.lzc.flag :: g) d [] bs rest s0 (lzcGroupReset (pbufStored (s.lzc.flag :: g) s)) ∧
      pixelWork d bs (lzcGroupReset (pbufStored (s.lzc.flag :: g) s)).lzc < pixelWork d bs s.lzc := by
  have tokens : 0 < s.lzc.t := (h.closes full).elim (fun eight => by rw [eight]; decide) And.left
  have block := h.block
  rw [lzcRest_close (h.closes full) (l' := (lzcGroupReset s).lzc) rfl rfl rfl, ← List.cons_append,
    ← List.append_assoc] at block
  have length := congrArg List.length block
  simp only [List.length_append, ← h.plen] at length
  have capacity := h.capacity
  have short := h.short
  refine ⟨?_, ?_, ?_⟩
  · rw [h.close_move full, lzcOut, if_pos h.op_eq, pbufAppend_fits (by omega) (by omega)]
    rfl
  · exact
      { h with
        toLzcHolds := { h.groupReset with }
        pbuf := by rw [← Memory.writeAll_ofBytes, ← h.pbuf, ← h.plen]; rfl
        plen := by rw [List.length_append, ← h.plen]; rfl
        block := block }
  · simp only [pixelWork, lzcGroupReset, pbufStored]
    omega

theorem made (h : BlockAt cb p d g bs rest s0 s) (notFull : lzcGroupFull s.lzc = false)
    (ready : lzcReady s.lzc = true) :
    BlockAt cb p d (g ++ tokenBytes d s.lzc.i (find d s.lzc.i)) bs rest s0 (lzcTokenOn d s) := by
  have inside : s.lzc.i < d.length := (h.present ready).1.trans_le h.nIn_le
  have same := lzcRest_token (g := g) (l' := (lzcTokenOn d s).lzc) inside (h.room notFull) rfl rfl rfl
  exact { h with toPixelsAt := (h.toPixelsAt.made notFull ready).1, block := same ▸ h.block }

/-- With the block complete FRA goes to LEN (R201). -/
theorem finished (h : BlockAt cb p d g bs rest s0 s) (starved : LzcStarved s.lzc) (eoi : s.lzc.eoi = true) :
    (opMove s).LeadsTo { s with fra := { s.fra with phase := .len } } ∧
      BlockReady cb rest s0 { s with fra := { s.fra with phase := .len } } := by
  obtain ⟨complete, nothing⟩ := h.complete_of_eoi starved eoi
  have all : p = cb := by rw [← h.block, nothing, List.append_nil]
  refine ⟨?_, { h with phase := rfl, pbuf := all ▸ h.pbuf, plen := all ▸ h.plen, inq := ?_, messageEnd := ?_ }⟩
  · have finish := h.finish_move starved complete
    rwa [lzcFinish, h.op_eq] at finish
  · exact h.inq.trans (if_pos eoi)
  · exact h.messageEnd eoi

end

/-- `VID.ENC` takes in the frame, up to its whole block in PBUF. -/
theorem reaches {cb p d g bs : List Byte} {rest : List Beat} {s0 s : State} {P : State → Prop}
    (h : BlockAt cb p d g bs rest s0 s) (run : ∀ {t}, BlockReady cb rest s0 t → Reaches t P) : Reaches s P := by
  induction work : pixelWork d bs s.lzc using Nat.strong_induction_on generalizing s p g bs with
  | _ n ih =>
    subst work
    rcases lzc_choice s.lzc with full | ⟨notFull, ready⟩ | starved
    · obtain ⟨move, next, less⟩ := h.closed full
      exact h.reaches_of_move move (ih _ less next rfl)
    · exact h.reaches_of_move (h.token_move notFull ready)
        (ih _ (h.toPixelsAt.made notFull ready).2 (h.made notFull ready) rfl)
    cases eoi : s.lzc.eoi with
    | true =>
      obtain ⟨move, ready⟩ := h.finished starved eoi
      exact h.reaches_of_move move (run ready)
    | false =>
      cases bs with
      | cons b bs =>
        obtain ⟨move, next, less⟩ := h.pixel_taken starved eoi
        refine h.reaches_of_move move (ih _ less { h with toPixelsAt := next, messageEnd := ?_ } rfl)
        exact fun no => absurd (eoi.symm.trans no) (by decide)
      | nil =>
        obtain ⟨move, next, less⟩ := h.end_taken starved eoi
        exact h.reaches_of_move move (ih _ less { h with toPixelsAt := next, messageEnd := fun _ => rfl } rfl)

end BlockAt

/-! ### The record is put out -/

theorem delivered_nil {s : State} (quiet : s.outPend = []) : delivered [] s = s := by
  rw [delivered, List.map_nil, List.append_nil, ← quiet]

theorem delivered_delivered (as bs : List Byte) (s : State) :
    delivered bs (delivered as s) = delivered (as ++ bs) s := by
  simp [delivered]

theorem vidEnc_length_move {s : State} (op : s.cfg.op = .vidEnc) (phase : s.fra.phase = .len) :
    (opMove s).LeadsTo
      (outBytes (be32 (BitVec.ofNat 32 s.fra.plen)) { s with fra := { s.fra with phase := .payload } }) := by
  rw [opMove, op]
  simp only [vidEncMove, phase]
  rfl

theorem opMove_vidEnc_payload {s : State} (op : s.cfg.op = .vidEnc) (phase : s.fra.phase = .payload) :
    opMove s = .unit (fraPayload s) := by
  rw [opMove, op]
  simp only [vidEncMove, phase]

/-- FRA puts out what is left of PBUF byte by byte, and the frame is done (R201). -/
theorem UnderWay.reaches_fraFrameDone {cb bs : List Byte} {s : State} {P : State → Prop} (h : UnderWay .vidEnc s)
    (phase : s.fra.phase = .payload) (pbuf : s.pbuf = Memory.ofBytes cb) (plen : s.fra.plen = cb.length)
    (left : cb.drop s.fra.pout = bs) (run : Reaches (fraFrameDone (Machine.delivered bs s)) P) : Reaches s P := by
  induction bs generalizing s with
  | nil =>
    have all : ¬s.fra.pout < s.fra.plen := by rw [plen]; exact (List.drop_eq_nil_iff.1 left).not_gt
    have move : (opMove s).LeadsTo (fraFrameDone s) := by
      rw [opMove_vidEnc_payload h.op_eq phase, fraPayload, if_neg all]
      rfl
    rw [delivered_nil h.quiet] at run
    exact h.reaches_of_move move run
  | cons b bs ih =>
    have next : cb[s.fra.pout]? = some b := by rw [← List.head?_drop, left, List.head?_cons]
    have more : s.fra.pout < s.fra.plen := by rw [plen]; exact (List.getElem?_eq_some_iff.1 next).1
    have move : (opMove s).LeadsTo (outBytes [b] { s with fra := { s.fra with pout := s.fra.pout + 1 } }) := by
      rw [opMove_vidEnc_payload h.op_eq phase, fraPayload, if_pos more, pbuf]
      simp only [Memory.read_ofBytes, next]
      rfl
    refine h.reaches_of_out move { h with } (ih { h with quiet := rfl } phase pbuf plen ?_ ?_)
    · exact (List.drop_drop ..).symm.trans (by rw [left]; rfl)
    · rw [delivered_delivered]
      exact run

/-- The length field and the block are put out, and the frame is done (R201). -/
theorem BlockReady.reaches_fraFrameDone {cb : List Byte} {rest : List Beat} {s0 s : State} {P : State → Prop}
    (h : BlockReady cb rest s0 s) (fresh : s0.fra.pout = 0)
    (run : Reaches (fraFrameDone (delivered (be32 (BitVec.ofNat 32 cb.length) ++ cb) s)) P) : Reaches s P := by
  have move := vidEnc_length_move h.op_eq h.phase
  rw [h.plen] at move
  refine h.reaches_of_out move { h.toUnderWay with } ?_
  refine UnderWay.reaches_fraFrameDone (cb := cb) { h.toUnderWay with quiet := rfl } rfl h.pbuf h.plen
    (congrArg cb.drop (h.pout.trans fresh)) ?_
  rw [delivered_delivered]
  exact run

/-! ### The file -/

/-- `VID.ENC` stands between two records, or after the last (R201): the frames have still to be taken and their records
to be put out. The bounds on the frames are those of 00_scope.md R16. -/
structure FileAt (frames : List (List Byte)) (rest : List Beat) (s : State) : Prop extends UnderWay .vidEnc s where
  phase : s.fra.phase = fraNext s.fidx s.cfg.count
  plen : s.fra.plen = 0
  pout : s.fra.pout = 0
  rlu : s.rlu = .init
  lzc : s.lzc = .init
  hbuf : s.hbuf = []
  gbuf : s.gbuf = []
  pbuf : s.pbuf = []
  counted : s.fidx.toNat + frames.length = s.cfg.count.toNat
  inq : s.inq = frames.flatMap message ++ rest
  admitted : s.inTaken + (frames.headD []).length < Config.posLimit
  bounds : ∀ bs ∈ frames, bs.length + 1 < Config.posLimit ∧
    (lzComp (rleEnc (bs.map (binPixel s.cfg)))).length < Config.blockLimit ∧
    (lzComp (rleEnc (bs.map (binPixel s.cfg)))).length ≤ s.pbufBytes

/-- The records of the frames that BIN makes of these beats (R200). -/
def fileRecords (cfg : Cfg) (frames : List (List Byte)) : List Byte :=
  frames.flatMap fun bs => frameRecord (bs.map (binPixel cfg))

theorem fileRecords_cons (cfg : Cfg) (bs : List Byte) (frames : List (List Byte)) :
    fileRecords cfg (bs :: frames) = frameRecord (bs.map (binPixel cfg)) ++ fileRecords cfg frames := List.flatMap_cons

namespace FileAt

/-- Before a frame LZC stands at the beginning of its block, with PBUF empty (R204). -/
theorem blockAt {bs : List Byte} {frames : List (List Byte)} {rest : List Beat} {s : State}
    (h : FileAt (bs :: frames) rest s) :
    BlockAt (lzComp (rleEnc (bs.map (binPixel s.cfg)))) [] (rleEnc (bs.map (binPixel s.cfg))) [] bs
      (frames.flatMap message ++ rest) s s := by
  obtain ⟨fits, short, capacity⟩ := h.bounds bs List.mem_cons_self
  obtain ⟨-, -, -, stream, -⟩ := runLengthEncodeWellFormed (bs.map (binPixel s.cfg))
  rw [List.length_map] at stream
  have more : s.fidx.toNat < s.cfg.count.toNat := by
    have counted := h.counted
    rw [List.length_cons] at counted
    omega
  have going : s.lzc.eoi = false := by rw [h.lzc]; rfl
  have inq := h.inq
  rw [List.flatMap_cons, List.append_assoc] at inq
  exact
    { h with
      hbuf := by rw [h.hbuf, h.lzc]; rfl
      nIn_le := by rw [h.lzc]; exact Nat.zero_le _
      i_le := by rw [h.lzc]; exact le_rfl
      gbuf := h.gbuf
      glen := by rw [h.lzc]; rfl
      tokens := by rw [h.lzc]; exact Nat.zero_le _
      ended := fun no => absurd (going.symm.trans no) (by decide)
      encodes := .inr rfl
      body := h.phase.trans (if_pos more)
      inq := inq.trans (if_neg (ne_true_of_eq_false going)).symm
      pending := fun _ => by rw [h.rlu, rluBytes_init, h.lzc]; rfl
      fits := stream.trans_lt fits
      cfg := rfl, fidx := rfl, pbufBytes := rfl, received := rfl, pout := rfl
      block := by rw [h.lzc]; exact lzcRest_fresh rfl rfl
      capacity := capacity, short := short
      messageEnd := fun no => absurd (going.symm.trans no) (by decide) }

/-- After a record the next frame is to be taken (R201). -/
theorem next {bs cb out : List Byte} {frames : List (List Byte)} {rest : List Beat} {s t : State}
    (h : FileAt (bs :: frames) rest s) (ready : BlockReady cb (frames.flatMap message ++ rest) s t) :
    FileAt frames rest (fraFrameDone (delivered out t)) := by
  have counted := h.counted
  rw [List.length_cons] at counted
  have small := s.cfg.count.isLt
  have succ : (s.fidx + 1).toNat = s.fidx.toNat + 1 := by bv_omega
  have shorter : (frames.headD []).length < Config.posLimit := by
    cases frames with
    | nil => decide
    | cons bs' frames => exact (Nat.le_succ _).trans_lt (h.bounds bs' (.tail _ (.head _))).1
  have cfg : (fraFrameDone (delivered out t)).cfg = s.cfg := ready.cfg
  have fidx : (fraFrameDone (delivered out t)).fidx = s.fidx + 1 := congrArg (· + 1) ready.fidx
  have pbufBytes : (fraFrameDone (delivered out t)).pbufBytes = s.pbufBytes := ready.pbufBytes
  have messageEnd : (fraFrameDone (delivered out t)).inTaken = 0 := ready.messageEnd
  refine
    { ready.toUnderWay with
      quiet := rfl, phase := rfl, plen := rfl, pout := rfl, rlu := rfl, lzc := rfl, hbuf := rfl, gbuf := rfl
      pbuf := rfl, inq := ready.inq, counted := ?_, admitted := ?_, bounds := ?_ }
  · rw [fidx, cfg, succ]
    omega
  · rwa [messageEnd, Nat.zero_add]
  · rw [cfg, pbufBytes]
    exact fun bs' mem => h.bounds bs' (.tail _ mem)

/-- After the last record the end marker ends the operation (R201, R203). -/
theorem finished {rest : List Beat} {s : State} (h : FileAt [] rest s) :
    Reaches s fun t => EndedDone s false (message []) rest t ∧ t.fidx = s.cfg.count := by
  have last : s.fidx.toNat = s.cfg.count.toNat := h.counted
  have phase : s.fra.phase = .fin := h.phase.trans (if_neg last.not_lt)
  have move : (opMove s).LeadsTo (outEnd (outBytes [] { s with fra := { s.fra with phase := .idle } })) := by
    rw [opMove, h.op_eq, outBytes_nil]
    simp only [vidEncMove, phase]
    rfl
  have done : UnderWay .vidEnc { s with fra := { s.fra with phase := .idle } } := { h with }
  have ended := done.deliveredEnd_endedDone []
  rw [zeroGeometry_eq_false (by rw [done.op_eq]; rfl)] at ended
  refine h.reaches_of_move move (.outEnd done.serves done.quiet ⟨h.inq ▸ ended, ?_⟩)
  rw [deliveredEnd, finishOp_fidx, if_neg (by simp [h.op_eq])]
  exact BitVec.eq_of_toNat_eq last

/-- `VID.ENC` puts out the records of the frames that are left, and ends with `DONE`. -/
theorem reaches {frames : List (List Byte)} {rest : List Beat} {s : State} (h : FileAt frames rest s) :
    Reaches s fun t =>
      EndedDone s false (message (fileRecords s.cfg frames)) rest t ∧ t.fidx = s.cfg.count := by
  induction frames generalizing s with
  | nil => exact h.finished
  | cons bs frames ih =>
    refine h.blockAt.reaches fun {t} ready => ready.reaches_fraFrameDone h.pout ?_
    have left := ih (h.next (out := frameRecord (bs.map (binPixel s.cfg))) ready)
    have cfg : (fraFrameDone (delivered (frameRecord (bs.map (binPixel s.cfg))) t)).cfg = s.cfg := ready.cfg
    rw [cfg] at left
    refine left.mono fun u ⟨ended, counted⟩ => ⟨?_, counted⟩
    rw [fileRecords_cons, message_append]
    exact ended.after (by rw [← ready.received]; rfl)

end FileAt

/-- FRA puts out the header of the snapshot, and goes to the first frame, or to the end where there is none (R201,
R203). -/
theorem vidEnc_header_move {s : State} (op : s.cfg.op = .vidEnc) (phase : s.fra.phase = .hdr) :
    (opMove s).LeadsTo (fraHeader (vidHdrBytes s.cfg) (fraNext s.fidx s.cfg.count) s) := by
  rw [opMove, op]
  simp only [vidEncMove, phase]
  rfl

/-- Settles O57: START puts FRA before the header, and RLU and LZC at their start values; after the header the records
of the frames are put out one after the other. -/
theorem runsVidEnc : Obligations.RunsVidEnc := by
  intro f s frames rest serves idle inq announced admitted
  refine ⟨acceptStart .vidEnc f s, startOp_idle idle.1 f, fun bounds => ?_⟩
  have start : UnderWay .vidEnc (acceptStart .vidEnc f s) := .acceptStart serves idle f
  have file : FileAt frames rest
      (delivered (vidHdrBytes (acceptStart .vidEnc f s).cfg)
        { acceptStart .vidEnc f s with fra := { Fra.init with hcnt := 12, phase := fraNext 0 s.frameCount } }) :=
    { start with
      quiet := rfl, phase := rfl, plen := rfl, pout := rfl, rlu := rfl, lzc := rfl, hbuf := rfl, gbuf := rfl
      pbuf := rfl, counted := (Nat.zero_add _).trans announced, inq := inq, admitted := admitted, bounds := bounds }
  have header : vidEnc (frames.map fun bs => bs.map (binPixel (acceptStart .vidEnc f s).cfg)) (s.width.setWidth 16)
        (s.height.setWidth 16) s.frameRate =
      vidHdrBytes (acceptStart .vidEnc f s).cfg ++ fileRecords (acceptStart .vidEnc f s).cfg frames := by
    rw [vidEnc_eq_header_append, List.length_map, announced, BitVec.ofNat_toNat, BitVec.setWidth_eq, List.flatMap_map,
      ← low16_eq_setWidth, ← low16_eq_setWidth]
    rfl
  rw [header, message_append]
  refine start.reaches_of_out (vidEnc_header_move rfl rfl) { start with }
    (file.reaches.mono fun t ⟨ended, counted⟩ => ?_)
  exact ⟨ended.after rfl, counted⟩

end Sys2Proof.Machine
end

section
/-! PROOF. Control (45_binarize_and_control.md): BIN (R220 to R222), a write of `CTRL` that starts an operation (R224), and
the normal end of an operation (R225). -/

namespace Sys2Proof.Machine

/-! ### BIN -/

theorem binPixel_raw {c : Cfg} (raw : c.pixfmt = false) (b : Byte) : binPixel c b = b.extractLsb' 0 1 :=
  if_neg (ne_true_of_eq_false raw)

theorem binPixel_strict {c : Cfg} (gray : c.pixfmt = true) (strict : c.thrIncl = false) (b : Byte) :
    binPixel c b = BitVec.ofBool (decide (c.thresh.toNat < b.toNat)) :=
  (if_pos gray).trans (if_neg (ne_true_of_eq_false strict))

theorem binPixel_inclusive {c : Cfg} (gray : c.pixfmt = true) (inclusive : c.thrIncl = true) (b : Byte) :
    binPixel c b = BitVec.ofBool (decide (c.thresh.toNat ≤ b.toNat)) :=
  (if_pos gray).trans (if_pos inclusive)

theorem ofBool_decide_eq_one_iff (p : Prop) [Decidable p] : BitVec.ofBool (decide p) = 1#1 ↔ p := by
  by_cases h : p <;> simp [h]

/-- Settles O36: RAW keeps bit 0, which is the byte modulo 2; in GRAY8 the pixel is the outcome of the comparison. -/
theorem binarizeRule : Obligations.BinarizeRule := by
  refine fun c b => ⟨fun raw => ?_, fun gray strict => ?_, fun gray inclusive => ?_⟩
  · rw [binPixel_raw raw, BitVec.extractLsb'_toNat, Nat.shiftRight_zero, pow_one]
  · rw [binPixel_strict gray strict]
    exact ofBool_decide_eq_one_iff _
  · rw [binPixel_inclusive gray inclusive]
    exact ofBool_decide_eq_one_iff _

/-! ### Commands -/

/-- Settles O7: on an idle BFC a command is the accepted START of its operation; on a busy one it is ignored. -/
theorem commandsStart : Obligations.CommandsStart := by
  refine ⟨fun f s idle => ?_, fun i s place busy => exec_command_busy place busy⟩
  have start (op : Op) : startOp op f s = .next (initUnits op (started op op.code f s)) := startOp_idle idle f
  exact ⟨start .rleEnc, start .lzComp, start .imgEnc, start .vidEnc, start .rleDec, start .lzDecomp, start .imgDec,
    start .vidHdr, start .vidFrame⟩

/-- The bytes of a `CTRL` word are read as the command that the word is (10_state.md R22). -/
theorem decode_command_be32 (v : Word) : decode .command (be32 v) = (decodeCommand v).map (·, []) := by
  simp only [be32, decode, unbe32_fields]

/-- Settles O16: the act is a write of `CTRL`, which runs what its word decodes to. -/
theorem stepRunsCommand : Obligations.StepRunsCommand := by
  intro s v i rest planned decoded
  rw [decode_command_be32] at decoded
  cases command : decodeCommand v with
  | error e => simp [command, Except.map] at decoded
  | ok j =>
    obtain rfl : j = i := by simpa [command, Except.map] using decoded
    have run : writeCtrl v { s with script := rest, regAddr := 0 } = exec j { s with script := rest, regAddr := 0 } := by
      simp only [writeCtrl, command]
    simpa only [step, planned, hostAct, if_true] using run

/-! ### An accepted START -/

/-- The codes 1 to 9 of `CTRL.OP` are those of the nine operations (30_encoding.md R104). -/
theorem exists_op_of_code {code : BitVec 4} (lower : 1 ≤ code.toNat) (upper : code.toNat ≤ 9) :
    ∃ op : Op, op.code = code ∧ op ≠ .none := by
  obtain ⟨n, hn⟩ := code
  simp only [BitVec.toNat_ofFin] at lower upper
  interval_cases n
  exacts [⟨.rleEnc, rfl, nofun⟩, ⟨.lzComp, rfl, nofun⟩, ⟨.imgEnc, rfl, nofun⟩, ⟨.vidEnc, rfl, nofun⟩,
    ⟨.rleDec, rfl, nofun⟩, ⟨.lzDecomp, rfl, nofun⟩, ⟨.imgDec, rfl, nofun⟩, ⟨.vidHdr, rfl, nofun⟩,
    ⟨.vidFrame, rfl, nofun⟩]

/-- The code of an operation selects its START. -/
theorem exec_commandOf_code {op : Op} (operation : op ≠ .none) (f : CmdFields) (s : State) :
    exec (commandOf op.code f) s = startOp op f s := by
  cases op with
  | none => exact absurd rfl operation
  | rleEnc | lzComp | imgEnc | vidEnc | rleDec | lzDecomp | imgDec | vidHdr | vidFrame => rfl

theorem acceptStart_ctrl (op : Op) (f : CmdFields) (s : State) :
    (acceptStart op f s).ctrl = ctrlFields op.code f := by
  cases op <;> rfl

theorem acceptStart_cfg (op : Op) (f : CmdFields) (s : State) :
    (acceptStart op f s).cfg = snapshot op { s with ctrl := ctrlFields op.code f } := by
  cases op <;> rfl

/-- An accepted START puts the units of its operation at their start values (R224, 10_state.md R42). -/
theorem acceptStart_unitsStarted (op : Op) (f : CmdFields) (s : State) : UnitsStarted op s (acceptStart op f s) := by
  cases op <;> exact ⟨rfl, rfl, rfl, rfl, rfl, rfl, rfl, by simp [Op.usesLzc, acceptStart, initUnits],
    by simp [Op.usesPbuf, acceptStart, initUnits], by simp [Op.usesLzd, acceptStart, initUnits]⟩

/-- An accepted START leaves the host registers but `CTRL`, and the streams. -/
theorem acceptStart_frame (op : Op) (f : CmdFields) (s : State) :
    let t := acceptStart op f s
    t =
      { s with
        ctrl := t.ctrl, cfg := t.cfg, status := t.status, fidx := t.fidx, rlu := t.rlu, lzc := t.lzc, fra := t.fra
        fpr := t.fpr, lzd := t.lzd, rld := t.rld, hbuf := t.hbuf, gbuf := t.gbuf, pbuf := t.pbuf, dhist := t.dhist } := by
  cases op <;> rfl

/-- Settles O8: the word runs the command of its code, which is ignored, or the store of a reserved code, or the START
of an operation. -/
theorem ctrlWriteWithStart : Obligations.CtrlWriteWithStart := by
  obtain ⟨reservedWrite, -⟩ := reservedCodesStoreFields
  refine fun v s start =>
    ⟨writeCtrl_busy, fun idle reserved => reservedWrite v s idle start reserved, fun idle lower upper => ?_⟩
  have code : (v.extractLsb' 0 4).toNat = v.toNat % 16 := by simp [BitVec.extractLsb'_toNat]
  obtain ⟨op, hop, operation⟩ := exists_op_of_code (code ▸ lower) (code ▸ upper)
  have write : writeCtrl v s = .next (acceptStart op (cmdFieldsOf v) s) := by
    rw [writeCtrl_start start, ← hop, exec_commandOf_code operation, startOp_idle idle]
  refine ⟨op, acceptStart op (cmdFieldsOf v) s, hop, operation, write, ?_, acceptStart_cfg op _ s,
    acceptStart_status op _ s, acceptStart_unitsStarted op _ s, acceptStart_frame op _ s⟩
  rw [acceptStart_ctrl, hop]
  rfl

/-! ### The normal end -/

/-- What R225 says of a move from `s` to `t` that sets `DONE`, and 10_state.md R39 of `GEOM0` there. -/
structure NormalEnd (s t : State) : Prop where
  busy : s.status.busy = true
  ended : t.status.busy = false
  noErr : t.status.err = false
  quiet : t.outPend = []
  unset : s.status.geom0 = false
  delivered :
    (s.cfg.op = .vidHdr ∧ s.outPend = [] ∧ t.received = s.received ∧
        t.status.geom0 = (t.width == 0 || t.height == 0)) ∨
      (s.outPend = [.fin] ∧ s.outReady = true ∧ t.received = s.received ++ [.fin] ∧
        (t.status.geom0 = true ↔ (s.cfg.op = .imgDec ∨ s.cfg.op = .vidFrame) ∧ s.rld.total = 0))

theorem Inv.err_of_busy {s : State} (h : Inv s) (busy : s.status.busy = true) : s.status.err = false := by
  obtain ⟨-, notBoth, -⟩ := h.status
  exact Bool.of_not_eq_true fun err => notBoth ⟨busy, err⟩

theorem Inv.geom0_of_busy {s : State} (h : Inv s) (busy : s.status.busy = true) : s.status.geom0 = false := by
  obtain ⟨-, -, -, -, -, -, notBoth⟩ := h.status
  exact Bool.of_not_eq_true fun geom0 => notBoth ⟨busy, geom0⟩

/-- The end marker is the last beat on OUT (20_memory.md R71). -/
theorem Inv.outPend_of_fin {s : State} {rest : List Beat} (h : Inv s) (hout : s.outPend = .fin :: rest) :
    s.outPend = [.fin] := by
  obtain ⟨-, -, last⟩ := h.quiet
  cases rest with
  | nil => exact hout
  | cons b rest => simp [hout] at last

theorem zeroGeometry_iff (s : State) :
    zeroGeometry s = true ↔ (s.cfg.op = .imgDec ∨ s.cfg.op = .vidFrame) ∧ s.rld.total = 0 := by
  simp [zeroGeometry, lzdFeedsRld_eq]

/-- The host accepts the end marker (R225). -/
theorem Inv.normalEnd_of_fin {s : State} {rest : List Beat} (h : Inv s) (hout : s.outPend = .fin :: rest)
    (ready : s.outReady = true) : NormalEnd s (Machine.acceptBeat .fin rest s) := by
  have only := h.outPend_of_fin hout
  obtain rfl : rest = [] := by simpa [hout] using only
  have busy := h.busy_of_outPend (by simp [only])
  have unset := h.geom0_of_busy busy
  refine ⟨busy, rfl, h.err_of_busy busy, rfl, unset, .inr ⟨only, ready, rfl, ?_⟩⟩
  have geom : (Machine.acceptBeat .fin [] s).status.geom0 = zeroGeometry s :=
    (congrArg (· || zeroGeometry s) unset).trans (Bool.false_or _)
  rw [geom, zeroGeometry_iff]

/-- VID.HDR has taken its header (44_multi_frame.md R205). -/
theorem Inv.normalEnd_of_vidHeader {s t : State} {w h : BitVec 16} {rate count : BitVec 32} (hi : Inv s)
    (run : Running .vidHdr s) (header : execVidHeader w h rate count s = .next t) : NormalEnd s t := by
  obtain ⟨busy, quiet, op⟩ := run
  have unset := hi.geom0_of_busy busy
  cases header
  refine ⟨busy, rfl, hi.err_of_busy busy, quiet, unset, .inl ⟨op, quiet, rfl, ?_⟩⟩
  simp only [statusDone, statusGeom, unset, Bool.false_or, setWidth_beq_zero]

/-- Of what a move of the running operation does, the end of VID.HDR alone sets `DONE`. -/
theorem Effect.vidHeader_of_done {s t : State} (h : Effect s t) (notDone : s.status.done = false)
    (done : t.status.done = true) :
    s.cfg.op = .vidHdr ∧ ∃ w h rate count, execVidHeader w h rate count s = .next t := by
  have same (held : t.status.done = s.status.done) : False := by simp [held, notDone] at done
  cases h with
  | works going work => exact (same (by rw [work.status_eq])).elim
  | counts out => exact (same rfl).elim
  | raises op => exact (same rfl).elim
  | imgHeader op run => cases run; exact (same rfl).elim
  | vidHeader op run => exact ⟨op, _, _, _, _, run⟩

/-- A move of BFC sets `DONE` where the end marker is accepted, or VID.HDR has its header. -/
theorem Inv.normalEnd_of_bfcMove {s t : State} (h : Inv s) (move : Machine.bfcMove s = some (.next t))
    (notDone : s.status.done = false) (done : t.status.done = true) : NormalEnd s t := by
  rcases bfcMove_next_cases move with ⟨b, rest, hout, rfl⟩ | ⟨⟨busy, hout, -⟩, hop⟩
  · cases b with
    | data v => exact absurd (notDone.symm.trans done) (by decide)
    | fin =>
      have ready : s.outReady = true := Bool.of_not_eq_false fun held => by simp [bfcMove_held hout held] at move
      exact h.normalEnd_of_fin hout ready
  · obtain ⟨inp, u, hf, hstep⟩ := opMove_leadsTo hop
    have hu := h.fetch hf
    have effect := hstep.effect
    rw [hf.frame] at hu effect
    obtain ⟨op, w, ht, rate, count, header⟩ := effect.vidHeader_of_done notDone done
    exact { hu.normalEnd_of_vidHeader ⟨busy, hout, op⟩ header with }

/-- The host's acts do not set `DONE`. -/
theorem HostStep.done_of_done {a : HostAct} {s t : State} (h : HostStep s a t) (done : t.status.done = true) :
    s.status.done = true := by
  cases h with
  | start idle => simp [acceptStart_status, statusStarted] at done
  | reset => cases done
  | write | read | offer | ready => exact done

/-- Settles O22: only a move of BFC sets `DONE`, and it does so in a normal end. -/
theorem doneMeansDelivered : Obligations.DoneMeansDelivered := by
  intro s t hi hstep notDone done
  have finish : NormalEnd s t := by
    rcases step_next_cases hstep with ⟨script, hmove⟩ | ⟨a, n, rest, -, hact⟩ | rfl
    · have planned : Inv { s with script := script } := { hi with }
      exact { planned.normalEnd_of_bfcMove hmove notDone done with }
    · exact absurd (notDone.symm.trans (hact.done_of_done done)) (by decide)
    · exact absurd (notDone.symm.trans done) (by decide)
  exact ⟨finish.busy, finish.ended, finish.noErr, finish.quiet, by simp [inReady, finish.ended], finish.unset,
    finish.delivered⟩

end Sys2Proof.Machine
end

section
/-! PROOF. Exceptions (60_exceptions.md): FPR raises at an `End` that comes before what it parses is whole, nothing else
raises, an operation that raises leaves nothing behind, and an idle BFC keeps its `STATUS` until the host starts an
operation or resets it. -/

namespace Sys2Proof.Machine

/-! ### The raising places -/

/-- FPR has not taken all of a header, a length field or a payload, so that an `End` raises `e` (R231, R232). -/
inductive Lacking (s : State) : Exc → Prop where
  | field {n : Nat} {ctx : Ctx} {e : Exc} (parses : Parses s n ctx e) (more : s.fpr.hcnt < n) : Lacking s e
  | payload (op : s.cfg.op = .vidFrame) (phase : s.fpr.phase = .payload) (more : s.fpr.got < s.fpr.need.toNat) :
    Lacking s .truncatedPayload

/-- The exception is taken: the `End` is taken off IN, and `STATUS` records the exception (R236). -/
def endRaised (e : Exc) (rest : List Beat) (s : State) : State :=
  raiseExc e { s with inq := rest, inTaken := 0 }

namespace Lacking

/-- While FPR lacks bytes, an `End` on IN is taken and raises. -/
theorem end_move {e : Exc} {s : State} {rest : List Beat} (h : Lacking s e)
    (going : s.cfg.op.usesRld = true → s.rld.ending = false) (inq : s.inq = .fin :: rest) :
    opMove s = .unit (.next (endRaised e rest s)) := by
  cases h with
  | field parses more =>
    rw [parses.opMove_eq going, fprCollect, if_neg more.not_ge, takeIn_fin inq]
    rfl
  | payload op phase more =>
    rw [opMove_vidFrame_payload op (going (by rw [op]; rfl)) phase, if_neg more.not_ge, takeIn_fin inq]
    rfl

/-- What FPR lacks is said by the snapshot and its own registers. -/
theorem congr {e : Exc} {s t : State} (h : Lacking s e) (cfg : t.cfg = s.cfg) (fpr : t.fpr = s.fpr) : Lacking t e := by
  cases h with
  | field parses more =>
    cases parses with
    | img op phase => exact .field (.img (cfg ▸ op) (fpr ▸ phase)) (fpr ▸ more)
    | vid op phase => exact .field (.vid (cfg ▸ op) (fpr ▸ phase)) (fpr ▸ more)
    | len op phase => exact .field (.len (cfg ▸ op) (fpr ▸ phase)) (fpr ▸ more)
  | payload op phase more => exact .payload (cfg ▸ op) (fpr ▸ phase) (fpr ▸ more)

/-- What lacks bytes is a stage of IMG.DEC, VID.HDR or VID.FRAME. -/
theorem staging {e : Exc} {s : State} (h : Lacking s e) :
    (s.cfg.op = .imgDec ∨ s.cfg.op = .vidHdr ∨ s.cfg.op = .vidFrame) ∧ s.fpr.phase.staging = true := by
  cases h with
  | field parses more =>
    cases parses with
    | img op phase => exact ⟨.inl op, by rw [phase]; rfl⟩
    | vid op phase => exact ⟨.inr (.inl op), by rw [phase]; rfl⟩
    | len op phase => exact ⟨.inr (.inr op), by rw [phase]; rfl⟩
  | payload op phase more => exact ⟨.inr (.inr op), by rw [phase]; rfl⟩

/-- While FPR lacks bytes, the input of RLD has not ended. -/
theorem going {e : Exc} {s : State} (h : Lacking s e) (hi : Inv s) (busy : s.status.busy = true) :
    s.cfg.op.usesRld = true → s.rld.ending = false := by
  intro uses
  obtain ⟨stager, staging⟩ := h.staging
  obtain ⟨-, hrld⟩ := hi.staging stager staging busy
  exact (hrld fun op => by simp [op, Op.usesRld] at uses).2

/-- The place and the code, operation by operation (R230 to R232). -/
theorem place {e : Exc} {s : State} (h : Lacking s e) :
    (s.cfg.op = .imgDec ∧ s.fpr.phase = .hdr ∧ s.fpr.hcnt < 8 ∧ e.code = 1) ∨
      (s.cfg.op = .vidHdr ∧ s.fpr.phase = .hdr ∧ s.fpr.hcnt < 12 ∧ e.code = 1) ∨
      (s.cfg.op = .vidFrame ∧ s.fpr.phase = .len ∧ s.fpr.hcnt < 4 ∧ e.code = 2) ∨
      (s.cfg.op = .vidFrame ∧ s.fpr.phase = .payload ∧ s.fpr.got < s.fpr.need.toNat ∧ e.code = 2) := by
  cases h with
  | field parses more =>
    cases parses with
    | img op phase => exact .inl ⟨op, phase, more, rfl⟩
    | vid op phase => exact .inr (.inl ⟨op, phase, more, rfl⟩)
    | len op phase => exact .inr (.inr (.inl ⟨op, phase, more, rfl⟩))
  | payload op phase more => exact .inr (.inr (.inr ⟨op, phase, more, rfl⟩))

end Lacking

/-! ### Taking an exception -/

/-- A running operation that raises leaves exactly `ERR` with the code (R236): `DONE` and `GEOM0` were not set. -/
theorem Inv.statusErr_of_busy {s : State} (h : Inv s) (busy : s.status.busy = true) (c : BitVec 4) :
    statusErr c s.status = { busy := false, done := false, err := true, errcode := c, geom0 := false } := by
  simp only [statusErr, h.done_of_busy busy, h.geom0_of_busy busy]

/-- Settles O18: the move takes the `End` and raises; BFC is idle then, and the next START is accepted. -/
theorem endRaisesExactly : Obligations.EndRaisesExactly := by
  intro s s0 rest turn hi inq c place
  obtain ⟨e, lacking, rfl, busy, quiet, -⟩ : ∃ e, Lacking s0 e ∧ e.code = c ∧ Running s0.cfg.op s0 := by
    rcases place with ⟨run, phase, more, rfl⟩ | ⟨run, phase, more, rfl⟩ | ⟨run, phase, more, rfl⟩ |
      ⟨run, phase, more, rfl⟩ <;> have op := run.op_eq
    · exact ⟨_, .field (.img op phase) more, rfl, op ▸ run⟩
    · exact ⟨_, .field (.vid op phase) more, rfl, op ▸ run⟩
    · exact ⟨_, .field (.len op phase) more, rfl, op ▸ run⟩
    · exact ⟨_, .payload op phase more, rfl, op ▸ run⟩
  have raised : step s = .next (endRaised e rest s0) :=
    turn.step_eq (bfcMove_unit quiet busy (lacking.end_move (lacking.going hi busy) inq))
  refine ⟨_, raised, ?_, rfl, by simp [inReady, endRaised, statusErr], by simp [outValid, endRaised, quiet],
    fun v start lower upper => ?_⟩
  · rw [← hi.statusErr_of_busy busy]
    rfl
  · obtain ⟨-, -, accepted⟩ := ctrlWriteWithStart v (endRaised e rest s0) start
    obtain ⟨op, u, code, operation, write, -, -, -, units, -⟩ := accepted rfl lower upper
    exact ⟨op, u, code, operation, write, units⟩

/-! ### Nothing else raises -/

/-- A field of `n` bytes can be read from any `n` bytes (30_encoding.md R97 to R99). -/
theorem Parses.decode_ne_error {n : Nat} {ctx : Ctx} {e : Exc} {s : State} (h : Parses s n ctx e) {bs : List Byte}
    (whole : n ≤ bs.length) (err : DecodeError) : decode ctx bs ≠ .error err := by
  cases h with
  | img =>
    match bs, whole with
    | _ :: _ :: _ :: _ :: _ :: _ :: _ :: _ :: _, _ => nofun
  | vid =>
    match bs, whole with
    | _ :: _ :: _ :: _ :: _ :: _ :: _ :: _ :: _ :: _ :: _ :: _ :: _, _ => nofun
  | len =>
    match bs, whole with
    | _ :: _ :: _ :: _ :: _, _ => nofun

theorem FieldStep.err_eq {s t : State} (h : FieldStep s t) : t.status.err = s.status.err := by
  cases h with
  | img op phase run => cases run; rfl
  | vid op phase run => cases run; rfl
  | len op phase run => cases run; rfl

/-- FPR sets `ERR` only where it lacks bytes and has taken an `End`; staged bytes are a field as soon as there are as many
as it has. -/
theorem FprStep.lacking_of_err {inp : Option Beat} {s t : State} (h : FprStep inp s t)
    (staged : s.fpr.stage.length = s.fpr.hcnt) (noErr : s.status.err = false) (err : t.status.err = true) :
    inp = some .fin ∧ ∃ e, Lacking s e ∧ t.status.errcode = e.code := by
  have same (held : t.status.err = s.status.err) : False := by simp [held, noErr] at err
  cases h with
  | stage parses more => exact (same rfl).elim
  | short parses more => exact ⟨rfl, _, .field parses more, rfl⟩
  | garbled parses whole read => exact absurd read (parses.decode_ne_error (staged ▸ whole) _)
  | field parses whole step => exact (same step.err_eq).elim
  | payloadByte op phase more room => exact (same rfl).elim
  | payloadShort op phase more => exact ⟨rfl, _, .payload op phase more, rfl⟩
  | payloadDone op phase all => exact (same rfl).elim

theorem EncStep.status_eq {inp : Option Beat} {s t : State} (h : EncStep inp s t) : t.status = s.status := by
  by_cases out : RecordOut s
  · rw [h.of_recordOut out]
    rfl
  · exact (h.works out).status_eq

theorem UnitStep.lacking_of_err {inp : Option Beat} {s t : State} (h : UnitStep inp s t)
    (staged : s.fpr.stage.length = s.fpr.hcnt) (noErr : s.status.err = false) (err : t.status.err = true) :
    inp = some .fin ∧ ∃ e, Lacking s e ∧ t.status.errcode = e.code := by
  have same (held : t.status = s.status) : False := by simp [held, noErr] at err
  cases h with
  | enc step => exact (same step.status_eq).elim
  | dec step => exact (same step.works.status_eq).elim
  | fpr step => exact step.lacking_of_err staged noErr err

/-- What R230 to R232 say of a move from `s` to `t` that sets `ERR`. -/
structure RaisesAtEnd (s t : State) : Prop where
  busy : s.status.busy = true
  quiet : s.outPend = []
  ended : ∃ rest, s.inq = .fin :: rest
  lacking : ∃ e, Lacking s e ∧ t.status.errcode = e.code

/-- A move of BFC sets `ERR` where FPR takes an `End` too early. -/
theorem Inv.raisesAtEnd_of_bfcMove {s t : State} (h : Inv s) (move : Machine.bfcMove s = some (.next t))
    (noErr : s.status.err = false) (err : t.status.err = true) : RaisesAtEnd s t := by
  rcases bfcMove_next_cases move with ⟨b, rest, -, rfl⟩ | ⟨⟨busy, quiet, -⟩, hop⟩
  · cases b <;> exact absurd (noErr.symm.trans err) (by decide)
  · obtain ⟨inp, u, hf, hstep⟩ := opMove_leadsTo hop
    obtain ⟨-, -, -, -, staged, -⟩ := (h.fetch hf).containers
    have before : u.status.err = false := by rwa [hf.frame]
    obtain ⟨rfl, e, lacking, code⟩ := hstep.lacking_of_err staged before err
    have ended : ∃ rest, s.inq = .fin :: rest := by
      cases hf with
      | fin inq => exact ⟨_, inq⟩
    exact ⟨busy, quiet, ended, e, lacking.congr (by rw [hf.frame]) (by rw [hf.frame]), code⟩

/-- The host's acts do not set `ERR`. -/
theorem HostStep.err_of_err {a : HostAct} {s t : State} (h : HostStep s a t) (err : t.status.err = true) :
    s.status.err = true := by
  cases h with
  | start idle => simp [acceptStart_status, statusStarted] at err
  | reset => cases err
  | write | read | offer | ready => exact err

/-- Settles O19: only a move of BFC sets `ERR`, and it does so at an `End` that FPR takes too early. -/
theorem onlyTheParserRaises : Obligations.OnlyTheParserRaises := by
  intro s t hi hstep noErr err
  have raises : RaisesAtEnd s t := by
    rcases step_next_cases hstep with ⟨script, hmove⟩ | ⟨a, n, rest, -, hact⟩ | rfl
    · have planned : Inv { s with script := script } := { hi with }
      have raises := planned.raisesAtEnd_of_bfcMove hmove noErr err
      obtain ⟨e, lacking, code⟩ := raises.lacking
      exact ⟨raises.busy, raises.quiet, raises.ended, e, lacking.congr rfl rfl, code⟩
    · exact absurd (noErr.symm.trans (hact.err_of_err err)) (by decide)
    · exact absurd (noErr.symm.trans err) (by decide)
  obtain ⟨e, lacking, code⟩ := raises.lacking
  rw [code]
  exact ⟨raises.busy, raises.quiet, raises.ended, lacking.place⟩

/-! ### An idle BFC -/

/-- Settles O25: without `BUSY` and without a beat to deliver BFC has no move, whatever is planned. -/
theorem idleDoesNothing : Obligations.IdleDoesNothing := by
  intro s ⟨idle, quiet⟩
  refine ⟨by simp [inReady, idle], by simp [outValid, quiet], fun plan => step_of_stuck plan (bfcMove_idle quiet idle),
    fun n a rest planned => step_of_stuck_planned (fun plan => ?_) planned⟩
  exact bfcMove_idle (s := { s with script := plan }) quiet idle

/-- Of the writes of `CTRL` to an idle BFC, only the START of an operation changes `STATUS` (45 R224, 30_encoding.md
R105). -/
theorem writeCtrl_idle_status {v : Word} {s t : State} (idle : s.status.busy = false) (h : writeCtrl v s = .next t) :
    t.status = s.status ∨
      (v.getLsbD 31 = true ∧ 1 ≤ v.toNat % 16 ∧ v.toNat % 16 ≤ 9 ∧
        t.status = { busy := true, done := false, err := false, errcode := 0, geom0 := false }) := by
  cases start : v.getLsbD 31 with
  | false =>
    obtain ⟨c, w, ht, r, k, lo, hi, write, -⟩ := writeReg_frame 0 v s
    rw [writeCtrl_plain start, write] at h
    cases h
    exact .inl rfl
  | true =>
    obtain ⟨-, reserved, accepted⟩ := ctrlWriteWithStart v s start
    by_cases code : 1 ≤ v.toNat % 16 ∧ v.toNat % 16 ≤ 9
    · obtain ⟨op, u, -, -, write, -, -, status, -⟩ := accepted idle code.1 code.2
      rw [write] at h
      cases h
      exact .inr ⟨rfl, code.1, code.2, status⟩
    · rw [reserved idle (by omega)] at h
      cases h
      exact .inl rfl

/-- Settles O20: an idle BFC has no move, and of the host's acts only a START and a reset change `STATUS`. -/
theorem statusStaysUntilStart : Obligations.StatusStaysUntilStart := by
  intro s t hi idle hstep
  obtain ⟨quiet, -⟩ := hi.quiet
  obtain ⟨-, -, waits, acts⟩ := idleDoesNothing s ⟨idle, quiet idle⟩
  cases planned : s.script with
  | nil =>
    rw [waits planned] at hstep
    cases hstep
    exact .inl rfl
  | cons move rest =>
    obtain ⟨n, a⟩ := move
    rw [acts n a rest planned] at hstep
    cases a with
    | write k v =>
      by_cases ctrl : k = 0
      · subst ctrl
        refine (writeCtrl_idle_status (s := { s with script := rest, regAddr := 0 }) idle hstep).imp_right ?_
        exact fun ⟨start, lower, upper, status⟩ => .inl ⟨n, v, rest, rfl, start, lower, upper, status⟩
      · cases hostAct_next hstep with
        | write => exact .inl rfl
        | start => exact absurd rfl ctrl
    | read | offer | ready =>
      cases hstep
      exact .inl rfl
    | reset =>
      cases hstep
      exact .inr (.inr ⟨n, rest, rfl, rfl⟩)

/-! ### An operation that raises -/

/-- From `s` an operation has come to `t` by the exception with code `c`: `STATUS` records it, the beats up to `rest` have
been taken, and nothing else is visible to the host (R236, R237). -/
structure RaisedSince (s : State) (c : BitVec 4) (rest : List Beat) (t : State) : Prop where
  status : t.status = { busy := false, done := false, err := true, errcode := c, geom0 := false }
  received : t.received = s.received
  outPend : t.outPend = []
  inq : t.inq = rest
  width : t.width = s.width
  height : t.height = s.height
  frameRate : t.frameRate = s.frameRate
  frameCount : t.frameCount = s.frameCount
  fidx : t.fidx = s.fidx

namespace UnderWay

/-- An `End` that comes while FPR lacks bytes ends the operation. -/
theorem reaches_raised {op : Op} {e : Exc} {s : State} {rest : List Beat} (h : UnderWay op s) (lacking : Lacking s e)
    (going : s.cfg.op.usesRld = true → s.rld.ending = false) (inq : s.inq = .fin :: rest) :
    Reaches s (RaisedSince s e.code rest) := by
  refine h.reaches_of_move (by rw [lacking.end_move going inq]; rfl) (.here ?_)
  exact ⟨by simp [endRaised, h.status, statusErr, statusStarted], rfl, h.quiet, rfl, rfl, rfl, rfl, rfl, rfl⟩

/-- A message that ends inside a header or a length field: its bytes are staged, and its `End` raises (43 R193, 44 R205,
R207). -/
theorem reaches_shortField {op : Op} {n : Nat} {ctx : Ctx} {e : Exc} {s : State} {bs : List Byte} {rest : List Beat}
    (h : UnderWay op s) (parses : Parses s n ctx e) (going : s.cfg.op.usesRld = true → s.rld.ending = false)
    (hcnt : s.fpr.hcnt = 0) (short : bs.length < n) (inq : s.inq = message bs ++ rest)
    (admitted : s.inTaken + bs.length < Config.posLimit) : Reaches s (RaisedSince s e.code rest) := by
  rw [← Nat.zero_add bs.length, ← hcnt] at short
  have staged : UnderWay op (fprStaged bs (.fin :: rest) s) := { h with }
  refine h.reaches_staged parses going (q := .fin :: rest) (by simpa [message] using inq) short.le admitted ?_
  exact (staged.reaches_raised (.field (parses.staged _ _) short) going rfl).mono fun t raised => { raised with }

/-- A message that ends inside the payload of a FrameRecord: its bytes enter PBUF, and its `End` raises (44 R207). -/
theorem reaches_shortPayload {s : State} {bs : List Byte} {rest : List Beat} (h : UnderWay .vidFrame s)
    (going : s.rld.ending = false) (phase : s.fpr.phase = .payload) (got : s.fpr.got = 0)
    (short : bs.length < s.fpr.need.toNat) (room : bs.length ≤ s.pbufBytes) (inq : s.inq = message bs ++ rest)
    (admitted : s.inTaken + bs.length < Config.posLimit) : Reaches s (RaisedSince s 2 rest) := by
  rw [← Nat.zero_add bs.length, ← got] at short room
  have stored : UnderWay .vidFrame (payloadStored bs (.fin :: rest) s) := { h with }
  refine h.reaches_payloadStored going phase (q := .fin :: rest) (by simpa [message] using inq) short.le room admitted ?_
  exact (stored.reaches_raised (.payload h.op_eq phase short) (fun _ => going) rfl).mono fun t raised => { raised with }

/-- A message that ends after the length field of a FrameRecord, inside its payload. -/
theorem reaches_shortRecord {s : State} {n : Word} {payload : List Byte} {rest : List Beat} (h : UnderWay .vidFrame s)
    (fpr : s.fpr = { Fpr.init with phase := .len }) (going : s.rld.ending = false) (short : payload.length < n.toNat)
    (room : payload.length ≤ s.pbufBytes) (inq : s.inq = message (be32 n ++ payload) ++ rest)
    (admitted : s.inTaken + 4 + payload.length < Config.posLimit) : Reaches s (RaisedSince s 2 rest) := by
  obtain ⟨phase, hcnt, stage, got⟩ : s.fpr.phase = .len ∧ s.fpr.hcnt = 0 ∧ s.fpr.stage = [] ∧ s.fpr.got = 0 := by
    rw [fpr]; exact ⟨rfl, rfl, rfl, rfl⟩
  rw [message_append, List.append_assoc] at inq
  refine h.reaches_of_field (i := .frameLen n) (.len h.op_eq phase) (fun _ => going) rfl rfl hcnt stage inq
    ((Nat.le_add_right _ payload.length).trans_lt admitted) rfl ?_
  have taken : UnderWay .vidFrame (frameLenTaken n (fprStaged (be32 n) (message payload ++ rest) s)) := { h with }
  exact (taken.reaches_shortPayload going rfl got short room rfl admitted).mono fun t raised => { raised with }

end UnderWay

/-- Settles O60: START puts FPR before its first byte, which the host sees nothing of, and the message ends inside the
header, the length field or the payload. -/
theorem raisingLeavesNothing : Obligations.RaisingLeavesNothing := by
  intro f s bs rest serves idle inq admitted i c raising
  suffices raised : ∃ s0, exec i s = .next s0 ∧ Reaches s0 (RaisedSince s c rest) by
    obtain ⟨s0, start, run⟩ := raised
    exact ⟨s0, start, run.mono fun t raised => ⟨raised.status, raised.received, raised.outPend, raised.inq, raised.width,
      raised.height, raised.frameRate, raised.frameCount, raised.fidx⟩⟩
  have start (op : Op) : UnderWay op (acceptStart op f s) := .acceptStart serves idle f
  have accepted (op : Op) : startOp op f s = .next (acceptStart op f s) := startOp_idle idle.1 f
  rcases raising with ⟨rfl, short, rfl⟩ | ⟨rfl, short, rfl⟩ | ⟨rfl, short, rfl⟩ |
    ⟨rfl, rfl, n, payload, rfl, short, room⟩
  · have run := (start .imgDec).reaches_shortField (.img rfl rfl) (fun _ => rfl) rfl short inq admitted
    exact ⟨_, accepted .imgDec, run.mono fun t raised => { raised with }⟩
  · have run := (start .vidHdr).reaches_shortField (.vid rfl rfl) nofun rfl short inq admitted
    exact ⟨_, accepted .vidHdr, run.mono fun t raised => { raised with }⟩
  · have run := (start .vidFrame).reaches_shortField (.len rfl rfl) (fun _ => rfl) rfl short inq admitted
    exact ⟨_, accepted .vidFrame, run.mono fun t raised => { raised with }⟩
  · rw [List.length_append, ← Nat.add_assoc] at admitted
    have run := (start .vidFrame).reaches_shortRecord rfl rfl short room inq admitted
    exact ⟨_, accepted .vidFrame, run.mono fun t raised => { raised with }⟩

end Sys2Proof.Machine
end
